-- ==== Sys2Proof/Word.lean ====
section
/-! DEFINITION. The machine's plainest words: a line level and a command code. -/

namespace Sys2Proof

/-- A Bit of 00_scope R16: "a single boolean sample taken from the data line at one clock toggle".
`true` is level 1 (high), `false` is level 0 (low). -/
abbrev Bit := Bool

/-- A command code on `cmd_op_i[2:0]` (30_encoding R70). -/
abbrev Code := BitVec 3

end Sys2Proof
end

