-- ==== Sys2Proof/Config.lean ====
section
/-! DEFINITION. What an implementation fixes (the build parameters K, W, P) and the values the spec leaves free. -/

namespace Sys2Proof

/-- The build-time parameters of the pulse-level block (00_scope R6, R7, R8): marker length K,
resolution W, flush-burst count P. No command or register writes them (R10). -/
structure Params where
  /-- K, the frame-marker length in zero bits. -/
  k : Nat
  /-- W, the number of bits in one sample. -/
  w : Nat
  /-- P, the number of pulses of the flush burst. -/
  p : Nat
  deriving DecidableEq, Repr

/-- The search behind `clog2`: the least `c' >= c` with `n <= 2^c'`, at most `fuel` further on. -/
def clog2From (n : Nat) : Nat → Nat → Nat
  | 0, c => c
  | fuel + 1, c => if n ≤ 2 ^ c then c else clog2From n fuel (c + 1)

/-- `clog2(n)`: the least `c >= 0` with `2^c >= n` (00_scope R9). -/
def clog2 (n : Nat) : Nat := clog2From n n 0

/-- ZW, the width of the zero-run counter (00_scope R9). -/
def Params.zw (c : Params) : Nat := clog2 (c.k + 1)

/-- CW, the width of the pulse counter (00_scope R9). -/
def Params.cw (c : Params) : Nat := clog2 (max c.w c.p + 1)

/-- The reference configuration: K = 4, W = 12, P = 20 (00_scope R6 to R8). -/
def Params.reference : Params := { k := 4, w := 12, p := 20 }

/-- A draw of the converter at a bit position no premise names (20_memory R52, 93 "any value"): a free value.
Nothing constrains it (log entry 1). -/
opaque Config.draw : Nat → Bit

/-- `HOST_FLOAT` (44_host_operations R182, D25): the rounding of the host's number format. A free value. -/
opaque Config.hostFloat : Rat → Rat

/-- `TIMESTAMP_FORMAT` (44_host_operations R188, D32): the text of a capture time. A free value. -/
opaque Config.timestampText : Nat → String

/-- `VOLTAGE_FORMAT` (44_host_operations R189, D32): the text of a voltage in millivolts. A free value. -/
opaque Config.voltageText : Rat → String

/-- How many step boundaries the host's n-th sleep of a delay lasts (44_host_operations R195, 93 "any value"). A free
value. -/
opaque Config.sleepBoundaries : Rat → Nat → Nat

/-- Whether a final record bears its sample's capture time or the time of its writing, which the spec leaves open
(44_host_operations R188, R192; log entry 22). A free value. -/
opaque Config.finalAtCapture : Bool

end Sys2Proof
end

