-- ==== Sys2Proof/Syntax.lean ====
section
/-! DEFINITION. The commands of the block, one constructor per row of spec/opcode_table.json. -/

namespace Sys2Proof

/-- The eight rows of the opcode map (30_encoding R71). A command has no operand (R70). -/
inductive Instr where
  /-- 0b000, reserved: answered ILLEGAL (43_serial_framer R163). -/
  | rsvd0
  /-- 0b001: one sampled pulse (40_clock_generator R105). -/
  | pulse
  /-- 0b010: the flush burst, P pulses without sampling (40_clock_generator R106). -/
  | flush
  /-- 0b011: search for K consecutive zeros (41_frame_synchronizer R121). -/
  | sync
  /-- 0b100: collect W bits, most significant first (42_adc_bit_collector R141). -/
  | read
  /-- 0b101: a SYNC phase, then a READ phase (43_serial_framer R161). -/
  | acquire
  /-- 0b110: a SYNC phase, then a FLUSH phase (43_serial_framer R162). -/
  | startup
  /-- 0b111, reserved: answered ILLEGAL (43_serial_framer R163). -/
  | rsvd7
  deriving DecidableEq, Repr

/-- The mnemonic of a command line (30_encoding R84). -/
def Instr.mnemonic : Instr → String
  | .rsvd0 => "RSVD0"
  | .pulse => "PULSE"
  | .flush => "FLUSH"
  | .sync => "SYNC"
  | .read => "READ"
  | .acquire => "ACQUIRE"
  | .startup => "STARTUP"
  | .rsvd7 => "RSVD7"

/-- Every command, in the order of the opcode map. -/
def Instr.all : List Instr :=
  [.rsvd0, .pulse, .flush, .sync, .read, .acquire, .startup, .rsvd7]

/-- The codes 0b000 and 0b111 are reserved (30_encoding R72). -/
def Instr.reserved : Instr → Bool
  | .rsvd0 => true
  | .pulse => false
  | .flush => false
  | .sync => false
  | .read => false
  | .acquire => false
  | .startup => false
  | .rsvd7 => true

/-- The commands whose first phase is a SYNC phase (30_encoding R71, column "phases"). -/
def Instr.startsWithSync : Instr → Bool
  | .rsvd0 => false
  | .pulse => false
  | .flush => false
  | .sync => true
  | .read => false
  | .acquire => true
  | .startup => true
  | .rsvd7 => false

end Sys2Proof
end

