-- ==== Sys2Proof/WellFormed.lean ====
section
/-! DEFINITION. What a well-formed command and a legal configuration are. -/

namespace Sys2Proof

/-- A command has no operand, register, immediate, address or mode field (30_encoding R70), so there is
nothing in one that could be ill-formed: every constructor is well-formed. -/
def Instr.wellFormed : Instr → Bool
  | .rsvd0 => true
  | .pulse => true
  | .flush => true
  | .sync => true
  | .read => true
  | .acquire => true
  | .startup => true
  | .rsvd7 => true

/-- The legal range of the parameters: K >= 1, W >= 1, P >= max(16, 2K) (00_scope R6, R7, R8; 90_conflicts C1). -/
abbrev Params.Legal (c : Params) : Prop :=
  1 ≤ c.k ∧ 1 ≤ c.w ∧ max 16 (2 * c.k) ≤ c.p

end Sys2Proof
end

