-- ==== Sys2Proof/Decode.lean ====
section
/-! DEFINITION. Decoding a command code and encoding a command (30_encoding R71, R73). -/

namespace Sys2Proof

/-- The decoder: total on the eight codes (30_encoding R73). It has nothing to refuse: a reserved code
is the command RSVD0 or RSVD7, accepted like any other (R72). -/
def decode (c : Code) : Instr :=
  match c.toFin with
  | 0 => .rsvd0
  | 1 => .pulse
  | 2 => .flush
  | 3 => .sync
  | 4 => .read
  | 5 => .acquire
  | 6 => .startup
  | 7 => .rsvd7

/-- The encoder: the code of each row of the opcode map (30_encoding R71). -/
def encode : Instr → Code
  | .rsvd0 => 0b000#3
  | .pulse => 0b001#3
  | .flush => 0b010#3
  | .sync => 0b011#3
  | .read => 0b100#3
  | .acquire => 0b101#3
  | .startup => 0b110#3
  | .rsvd7 => 0b111#3

/-- Why a number is no command. -/
inductive DecodeError where
  /-- The number has a bit above `cmd_op_i[2:0]`: the port has three wires (30_encoding R70), so it is no code. -/
  | widerThanPort
  deriving DecidableEq, Repr

/-- Decoding a number: a code is always a whole 3-bit value (20_memory R57). -/
def decodeNumber (w : Nat) : Except DecodeError Instr :=
  if w < 8 then .ok (decode (BitVec.ofNat 3 w)) else .error .widerThanPort

/-- The command the decoder reads from a word of the opcode table: bit 0 is `cmd_op_i[0]`, and every bit
from `nbits` on is 0. -/
def decodeTableWord (nbits w : Nat) : Option Instr :=
  match decodeNumber (w % 2 ^ nbits) with
  | .ok i => some i
  | .error _ => none

/-- Reading a mnemonic of a command line (30_encoding R84). -/
def ofMnemonic (m : String) : Option Instr :=
  Instr.all.find? (fun i => i.mnemonic == m)

end Sys2Proof
end

