-- ==== Sys2Proof/Machine/State.lean ====
section
/-! DEFINITION. Everything the spec gives the machine, as plain data, and the state right after reset. -/

namespace Sys2Proof.Machine

/-- The phases of the register `fsm` (10_state R30). The codes 0b101 to 0b111 are never written and are no phase. -/
inductive Phase where
  /-- No command in progress. -/
  | idle
  /-- Searching for the frame marker. -/
  | sync
  /-- Collecting sample bits. -/
  | read
  /-- Issuing pulses without sampling. -/
  | flush
  /-- Issuing one sampled pulse. -/
  | pulse
  deriving DecidableEq, Repr

/-- The status of a finished command (30_encoding R80). The code 0b11 is reserved, never raised and no status. -/
inductive Status where
  /-- The command ran every pulse its rule asks. -/
  | ok
  /-- A SYNC phase was abandoned at `cancel_i` = 1 before the marker was found. -/
  | cancelled
  /-- The code was reserved. -/
  | illegal
  deriving DecidableEq, Repr

/-- The converter, the agent outside the block (00_scope R3, 10_state R45, 20_memory R52, R53). -/
structure Converter where
  /-- Whether the converter drives the data line; when it does not, the pull-up makes the line read 1 (10_state R26). -/
  driven : Bool
  /-- The bit the converter presents since its last falling edge. -/
  out : Bit
  /-- The next draws, where a premise names them (30_encoding R84, `stream`); after them the draws are free. -/
  named : List Bit
  /-- How many bit positions falling edges have consumed (20_memory R53); the index of the next free draw. -/
  pos : Nat
  deriving DecidableEq, Repr

/-- What the host does at one step boundary: the input levels it sets from then on (10_state R20 to R23). -/
structure HostMove where
  /-- `rst_i` at the next boundary. -/
  rst : Bool
  /-- Should a reset land inside a pulse, whether that pulse's falling edge came first (70_reset_and_hazards R233). -/
  midPulse : Bool
  /-- A command to present, unless one is presented and not accepted yet (30_encoding R75). -/
  present : Option Code
  /-- `cancel_i` at the next boundary. -/
  cancel : Bool
  /-- Whether the host reads `sample_o` at the next boundary (10_state R47). -/
  readSample : Bool
  deriving DecidableEq, Repr

/-- The input ports' levels at this step boundary, and the host that drives them (10_state R20; 44_host_operations R194). -/
structure HostPort where
  /-- `rst_i`. -/
  rst : Bool
  /-- The environment's choice of 70_reset_and_hazards R233 for a reset at this boundary. -/
  midPulse : Bool
  /-- `cmd_valid_i`. -/
  cmdValid : Bool
  /-- `cmd_op_i`. -/
  cmdOp : Code
  /-- `cancel_i`. -/
  cancel : Bool
  /-- Whether the host reads `sample_o` at this boundary. -/
  readSample : Bool
  /-- The sample the host read last, if it read one. -/
  taken : Option Nat
  /-- The host's moves at the boundaries after this one; when there are none left the host is quiet (log entry 5). -/
  plan : List HostMove
  deriving DecidableEq, Repr

/-- The block's registers (10_state R29) for parameters `c`, with the two agents it meets, the converter and the host. -/
structure Framer (c : Params) where
  /-- The phase register (10_state R30). -/
  fsm : Phase
  /-- The code of the command in progress (10_state R31). -/
  op : Code
  /-- The zero-run counter, ZW bits (10_state R32). -/
  zrun : BitVec c.zw
  /-- The pulse counter, CW bits (10_state R33). -/
  cnt : BitVec c.cw
  /-- The sample shift register, W bits (10_state R34). -/
  shreg : BitVec c.w
  /-- The last completed Raw Sample, W bits (10_state R35); it holds no sample while `sampleValid` is false (R47). -/
  sample : BitVec c.w
  /-- Whether a READ phase has completed since reset (10_state R36). -/
  sampleValid : Bool
  /-- Whether the last pulse completed a frame marker (10_state R37). -/
  synced : Bool
  /-- The bit of the most recent sampled pulse (10_state R38). -/
  lastBit : Bit
  /-- The status of the last finished command (10_state R39). -/
  respStatus : Status
  /-- Whether a command finished at the edge before this cycle (10_state R40). -/
  respValid : Bool
  /-- The level driven on the clock line (10_state R41). -/
  sclk : Bit
  /-- The level driven on the HOLD line (10_state R27). -/
  hold : Bit
  /-- The converter on the two lines. -/
  line : Converter
  /-- The input ports and the host. -/
  port : HostPort
  /-- Whether there has been a reset; before the first one every register holds no value (70_reset_and_hazards R234). -/
  started : Bool
  /-- How many pulses the block has issued since the last reset (00_scope R14); no register of the block. -/
  pulses : Nat
  deriving DecidableEq, Repr

/-- The machine: the build parameters, which no step changes (00_scope R10), and the rest at their widths. -/
structure State where
  /-- K, W and P. -/
  cfg : Params
  /-- The block, the converter and the host. -/
  fr : Framer cfg
  deriving DecidableEq, Repr

/-- Why the machine stops with a fault. -/
inductive Fault where
  /-- Raised by a step in which the host reads `sample_o` while `sample_valid_o` = 0: 10_state R47 makes that read a
  fault of the model, not the value 0. Safe: the hardware would go on with a value no claim may use. -/
  | sampleNotValid
  /-- Raised by a step before the first reset: 70_reset_and_hazards R234 gives the block no step there (93: "stuck").
  Safe: nothing is claimed of that state. -/
  | noResetYet
  deriving DecidableEq, Repr

/-- Why the model gives no meaning. -/
inductive Refusal where
  /-- Raised by an arm of `exec` whose command has no meaning yet. No arm does. Safe. -/
  | notModelled (mnemonic : String)
  /-- Raised by a step in a configuration outside the legal range: 00_scope R8, "A model refuses a configuration
  outside the legal range". The cycle layer raises it too, there and for a timing outside the range of 00_scope R11
  (DESIGN CHOICE, log entry 15). Safe. -/
  | illegalConfig
  /-- Raised when a SYNC phase finds the marker under a command whose row of 43_serial_framer R164 has no `SyncEnd()`
  (a dash). No run reaches such a state: only SYNC, ACQUIRE and STARTUP enter a SYNC phase. Safe. -/
  | noSyncEnd
  deriving DecidableEq, Repr

/-- The inputs of a quiet host: no reset, no command, no cancel, no read (log entry 13). -/
def HostPort.quiet : HostPort :=
  { rst := false, midPulse := false, cmdValid := false, cmdOp := 0b000#3, cancel := false, readSample := false,
    taken := none, plan := [] }

/-- A converter that drives the line and whose every draw is free (log entries 1, 2, 3). -/
def Converter.unnamed : Converter :=
  { driven := true, out := true, named := [], pos := 0 }

/-- The registers at their reset values (10_state R46), with a given converter and host. -/
def Framer.reset (c : Params) (line : Converter) (port : HostPort) : Framer c :=
  { fsm := .idle, op := 0b000#3, zrun := 0, cnt := 0, shreg := 0, sample := 0, sampleValid := false,
    synced := false, lastBit := true, respStatus := .ok, respValid := false, sclk := true, hold := false,
    line := line, port := port, started := true, pulses := 0 }

/-- The machine right after reset, with `rst_i` back at 0 (70_reset_and_hazards R232), in the reference configuration. -/
def State.reset : State :=
  { cfg := Params.reference, fr := Framer.reset Params.reference Converter.unnamed HostPort.quiet }

end Sys2Proof.Machine
end

