-- ==== Sys2Proof/Machine/Ops.lean ====
section
/-! DEFINITION. The named operations over the registers, the two lines and the host's ports. -/

namespace Sys2Proof.Machine

/-! ### The converter and the data line -/

/-- The bit the converter's next falling edge brings: the next named draw, or a free one (20_memory R52). -/
def Converter.draw (c : Converter) : Bit :=
  match c.named with
  | b :: _ => b
  | [] => Config.draw c.pos

/-- A falling edge of `sclk_o`: the converter moves to its next output bit (20_memory R52, R53). -/
def Converter.shift (c : Converter) : Converter :=
  { c with out := c.draw, named := c.named.tail, pos := c.pos + 1 }

/-- The level of the data line: the converter's bit, or 1 by the pull-up when it drives nothing (10_state R26). -/
def Converter.level (c : Converter) : Bit := !c.driven || c.out

/-- The converter after `n` falling edges. -/
def Converter.shifts : Nat → Converter → Converter
  | 0, c => c
  | n + 1, c => Converter.shifts n c.shift

/-- The bits the line will show after each of the next `n` falling edges, in order. -/
def Converter.upcoming : Nat → Converter → List Bit
  | 0, _ => []
  | n + 1, c => c.shift.level :: Converter.upcoming n c.shift

/-- `DriveClk(l)` (00_scope R13): set the clock line. A 1 followed by a 0 is a falling edge: the converter
shifts, and a pulse has begun, numbered by `pulses` (00_scope R14). -/
def driveClk {c : Params} (l : Bit) (m : Framer c) : Framer c :=
  if m.sclk && !l then { m with sclk := l, line := m.line.shift, pulses := m.pulses + 1 }
  else { m with sclk := l }

/-- `ReadData()` (00_scope R13): the level of `sdata_i`. Reading it has no side effect (20_memory R59). -/
def readData {c : Params} (m : Framer c) : Bit := m.line.level

/-! ### The pulse primitives (40_clock_generator R100, R101) -/

/-- The two edges every pulse makes: low, then high. -/
def pulseEdges {c : Params} (m : Framer c) : Framer c := driveClk true (driveClk false m)

/-- What a sampled pulse writes: `last_bit <- b; synced <- 0` (R100). -/
def latchBit {c : Params} (b : Bit) (m : Framer c) : Framer c := { m with lastBit := b, synced := false }

/-- What a pulse without sampling writes: `synced <- 0` (R101). -/
def clearSynced {c : Params} (m : Framer c) : Framer c := { m with synced := false }

/-- `SampledPulse()` (R100): both edges, then the read of the data line. -/
def sampledPulse {c : Params} (m : Framer c) : Bit × Framer c :=
  let t := pulseEdges m
  (readData t, latchBit (readData t) t)

/-- `Toggle()` (R101): both edges and no read. -/
def toggle {c : Params} (m : Framer c) : Framer c := clearSynced (pulseEdges m)

/-! ### Responses and the start of a phase -/

/-- `resp_valid <- 0`, at every edge at which `Respond` is not performed (30_encoding R82). -/
def clearResp {c : Params} (m : Framer c) : Framer c := { m with respValid := false }

/-- `Respond(status)` (30_encoding R82). -/
def respond {c : Params} (st : Status) (m : Framer c) : Framer c :=
  { m with respStatus := st, respValid := true, fsm := .idle }

/-- Entering the PULSE phase (40_clock_generator R105). -/
def enterPulse {c : Params} (m : Framer c) : Framer c := { m with fsm := .pulse }

/-- `EnterFlush()` (40_clock_generator R106). -/
def enterFlush {c : Params} (m : Framer c) : Framer c := { m with fsm := .flush, cnt := 0 }

/-- `EnterSync()` (41_frame_synchronizer R120). -/
def enterSync {c : Params} (m : Framer c) : Framer c := { m with fsm := .sync, zrun := 0 }

/-- `EnterRead()` (42_adc_bit_collector R140). -/
def enterRead {c : Params} (m : Framer c) : Framer c := { m with fsm := .read, shreg := 0, cnt := 0 }

/-- What the opcode map and 43_serial_framer R164 give one command: its code, what its acceptance starts, and
its `SyncEnd()` (`none` where R164 has a dash). -/
structure Row (c : Params) where
  /-- The code written to `op` (30_encoding R71). -/
  code : Code
  /-- What `Accept` does after `op <- code` (43_serial_framer R160). -/
  start : Framer c → Framer c
  /-- The end of the command's SYNC phase (43_serial_framer R164). -/
  syncEnd : Option (Framer c → Framer c)

/-! ### The register updates of one pulse of each phase -/

/-- `shreg[W-2:0] ++ b`, and `b` alone where W = 1 (42_adc_bit_collector R141). -/
def shiftIn {w : Nat} (s : BitVec w) (b : Bit) : BitVec w := s.shiftConcat b

/-- The end of the one pulse of a PULSE phase, which read `b` (40_clock_generator R105). -/
def pulseUpdate {c : Params} (b : Bit) (m : Framer c) : Framer c := respond .ok (latchBit b m)

/-- The end of a pulse of a FLUSH phase (40_clock_generator R106). -/
def flushUpdate {c : Params} (m : Framer c) : Framer c :=
  let n := m.cnt + 1
  let t := { clearSynced m with cnt := n }
  if n.toNat = c.p then respond .ok t else t

/-- `z` of 41_frame_synchronizer R121: 0 after a 1 bit, one more after a 0 bit (R122). -/
def nextRun {n : Nat} (b : Bit) (z : BitVec n) : BitVec n := if b then 0 else z + 1

/-- The end of a pulse of a SYNC phase, which read `b` (41_frame_synchronizer R121, R123). -/
def syncUpdate {c : Params} (row : Row c) (b : Bit) (m : Framer c) : Option (Framer c) :=
  let z := nextRun b m.zrun
  let t := { latchBit b m with zrun := z }
  if z.toNat = c.k then row.syncEnd.map (fun finish => finish { t with synced := true }) else some t

/-- The end of a pulse of a READ phase, which read `b` (42_adc_bit_collector R141). -/
def readUpdate {c : Params} (b : Bit) (m : Framer c) : Framer c :=
  let s := shiftIn m.shreg b
  let n := m.cnt + 1
  let t := { latchBit b m with shreg := s, cnt := n }
  if n.toNat = c.w then respond .ok { t with sample := s, sampleValid := true } else t

/-- The end of a pulse of whatever phase the block is in. -/
def phaseUpdate {c : Params} (row : Row c) (b : Bit) (m : Framer c) : Option (Framer c) :=
  match m.fsm with
  | .idle => some m
  | .pulse => some (pulseUpdate b m)
  | .flush => some (flushUpdate m)
  | .sync => syncUpdate row b m
  | .read => some (readUpdate b m)

/-! ### One step of a command (43_serial_framer R160) -/

/-- `Accept(code)` (30_encoding R74, 43_serial_framer R160). -/
def accept {c : Params} (row : Row c) (m : Framer c) : Framer c := row.start { clearResp m with op := row.code }

/-- One pulse of the phase in progress: both edges, the read, the phase's register updates. -/
def pulseOfPhase {c : Params} (row : Row c) (m : Framer c) : Option (Framer c) :=
  let t := pulseEdges (clearResp m)
  phaseUpdate row (readData t) t

/-- The outcome of a pulse of a phase: none only where a SYNC phase ends under a command that has no `SyncEnd()`. -/
def pulseOutcome {c : Params} : Option (Framer c) → Host.Outcome State Fault Refusal
  | some t => .next ⟨c, t⟩
  | none => .refused .noSyncEnd

/-- One step of the command of `row`: its acceptance when the block is IDLE, and otherwise one step of its phase.
In a SYNC phase `cancel_i` is tested first (60_exceptions R203); in the others it has no effect (R204). -/
def commandStep {c : Params} (row : Row c) (m : Framer c) : Host.Outcome State Fault Refusal :=
  match m.fsm with
  | .idle => .next ⟨c, accept row m⟩
  | _ =>
    if m.fsm = .sync ∧ m.port.cancel = true then .next ⟨c, respond .cancelled (clearResp m)⟩
    else pulseOutcome (pulseOfPhase row m)

/-! ### Reset (70_reset_and_hazards R230 to R234) -/

/-- Whether a reset at this boundary finds a pulse's falling edge already made: the environment's choice, where
a pulse can be in progress at all (R233; log entry 7). -/
def resetMidPulse {c : Params} (m : Framer c) : Bool :=
  m.port.midPulse && (!m.started || decide (m.fsm ≠ .idle))

/-- A cycle with `rst_i` = 1: every register takes its reset value (10_state R46); the converter has shifted by
0 or 1 positions (R233). -/
def resetStep {c : Params} (m : Framer c) : Framer c :=
  Framer.reset c (if resetMidPulse m then m.line.shift else m.line) m.port

/-! ### The host's turn (44_host_operations R194) -/

/-- The move of a host whose plan has ended: nothing but `cancel_i` where it was. -/
def HostPort.quietMove (h : HostPort) : HostMove :=
  { rst := false, midPulse := false, present := none, cancel := h.cancel, readSample := false }

/-- The host's next move. -/
def HostPort.nextMove (h : HostPort) : HostMove :=
  match h.plan with
  | mv :: _ => mv
  | [] => h.quietMove

/-- The ports at the next boundary. A presented command that was not accepted stays presented, unchanged
(30_encoding R75); otherwise the move's command, if it has one, is presented. The hosts that consume responses set the
ports anew at each boundary from the outputs they see (`System.step`, `Runner.step`). -/
def HostPort.turn (accepted : Bool) (sampleSeen : Nat) (h : HostPort) : HostPort :=
  let mv := h.nextMove
  let held := h.cmdValid && !accepted
  { rst := mv.rst
    midPulse := mv.midPulse
    cmdValid := held || mv.present.isSome
    cmdOp := if held then h.cmdOp else mv.present.getD h.cmdOp
    cancel := mv.cancel
    readSample := mv.readSample
    taken := if h.readSample then some sampleSeen else h.taken
    plan := h.plan.tail }

/-- The host's turn after a step of the block; `sampleSeen` is what `sample_o` showed at the boundary. -/
def hostTurn (accepted : Bool) (sampleSeen : Nat) (s : State) : State :=
  ⟨s.cfg, { s.fr with port := s.fr.port.turn accepted sampleSeen }⟩

/-- The host's turn after an outcome: only a next state has one. -/
def Outcome.thenHost (accepted : Bool) (sampleSeen : Nat) :
    Host.Outcome State Fault Refusal → Host.Outcome State Fault Refusal
  | .next t => .next (hostTurn accepted sampleSeen t)
  | .fault f => .fault f
  | .refused r => .refused r

end Sys2Proof.Machine
end

