-- ==== Sys2Proof/Machine/Flags.lean ====
section
/-! DEFINITION. The output ports (10_state R20, R24, R42) and the codes they show. The block has no condition flags
(R43): its status is these outputs. -/

namespace Sys2Proof.Machine

/-- The codes of `fsm` (10_state R30), not visible outside the block. -/
def Phase.code : Phase → BitVec 3
  | .idle => 0b000#3
  | .sync => 0b001#3
  | .read => 0b010#3
  | .flush => 0b011#3
  | .pulse => 0b100#3

/-- The codes of `resp_status_o` (30_encoding R80). -/
def Status.code : Status → BitVec 2
  | .ok => 0b00#2
  | .cancelled => 0b01#2
  | .illegal => 0b10#2

/-- `busy_o` = (`fsm` != IDLE) (10_state R42). -/
def busy {c : Params} (m : Framer c) : Bool := decide (m.fsm ≠ .idle)

/-- `cmd_ready_o` = (`fsm` = IDLE) and (`rst_i` = 0) and (`resp_valid` = 0) (10_state R42). -/
def cmdReady {c : Params} (m : Framer c) : Bool := decide (m.fsm = .idle) && !m.port.rst && !m.respValid

/-- Whether a command is accepted at this boundary (30_encoding R74). -/
def accepts {c : Params} (m : Framer c) : Bool := m.port.cmdValid && cmdReady m

/-- The levels of the output ports (10_state R20) for resolution `w`. -/
structure Outputs (w : Nat) where
  /-- `cmd_ready_o`. -/
  cmdReady : Bool
  /-- `resp_valid_o`. -/
  respValid : Bool
  /-- `resp_status_o`. -/
  respStatus : BitVec 2
  /-- `resp_bit_o`. -/
  respBit : Bit
  /-- `sample_o`. -/
  sample : BitVec w
  /-- `sample_valid_o`. -/
  sampleValid : Bool
  /-- `synced_o`. -/
  synced : Bool
  /-- `busy_o`. -/
  busy : Bool
  /-- `sclk_o`. -/
  sclk : Bit
  /-- `hold_o`. -/
  hold : Bit
  deriving DecidableEq, Repr

/-- The output ports, driven directly from the registers (10_state R24). -/
def outputs {c : Params} (m : Framer c) : Outputs c.w :=
  { cmdReady := cmdReady m, respValid := m.respValid, respStatus := m.respStatus.code, respBit := m.lastBit,
    sample := m.sample, sampleValid := m.sampleValid, synced := m.synced, busy := busy m, sclk := m.sclk,
    hold := m.hold }

/-- The host's read of `sample_o`: a fault while it shows no sample (10_state R47) or no register holds a value
(70_reset_and_hazards R234). -/
def hostReadSample {c : Params} (m : Framer c) : Except Fault (BitVec c.w) :=
  if m.started && m.sampleValid then .ok m.sample else .error .sampleNotValid

/-- Whether the host does at this boundary what 10_state R47 makes a fault. -/
def badRead {c : Params} (m : Framer c) : Bool := m.port.readSample && !(m.started && m.sampleValid)

end Sys2Proof.Machine
end

