-- ==== Sys2Proof/Machine/Operands.lean ====
section
/-! DEFINITION. A command has no operand (30_encoding R70). What stands in an operand's place is the command the
block works on at a step boundary, read from `cmd_op_i` at acceptance and from `op` afterwards. -/

namespace Sys2Proof.Machine

/-- The command this boundary runs a step of: the presented one if it is accepted now (30_encoding R74), the one in
progress if the block is busy (10_state R31), and none while the block idles. -/
def currentCommand {c : Params} (m : Framer c) : Option Instr :=
  match m.fsm with
  | .idle => if accepts m then some (decode m.port.cmdOp) else none
  | _ => some (decode m.op)

/-- A boundary at which an IDLE block accepts nothing: no change except `resp_valid <- 0` (43_serial_framer R160). -/
def idleStep {c : Params} (m : Framer c) : Framer c := clearResp m

/-- One step boundary of the block and the host's turn after it, with `run` the meaning of a command.
The order is: a configuration the model refuses (00_scope R8); a host read the model faults (10_state R47); reset, above
every event of the block (60_exceptions R208); no step before the first reset (70_reset_and_hazards R234); the command
(43_serial_framer R160). -/
def boundary (run : Instr → State → Host.Outcome State Fault Refusal) (s : State) :
    Host.Outcome State Fault Refusal :=
  if ¬ s.cfg.Legal then .refused .illegalConfig
  else if badRead s.fr then .fault .sampleNotValid
  else if s.fr.port.rst then .next (hostTurn false s.fr.sample.toNat ⟨s.cfg, resetStep s.fr⟩)
  else if s.fr.started = false then .fault .noResetYet
  else
    match currentCommand s.fr with
    | some i => Outcome.thenHost (accepts s.fr) s.fr.sample.toNat (run i s)
    | none => .next (hostTurn false s.fr.sample.toNat ⟨s.cfg, idleStep s.fr⟩)

/-- The machine with the command of code `op` presented and the block ready for it. -/
def presented {c : Params} (op : Code) (m : Framer c) : Framer c :=
  { m with
    fsm := .idle
    respValid := false
    started := true
    port := { m.port with rst := false, cmdValid := true, cmdOp := op, readSample := false } }

end Sys2Proof.Machine
end

