-- ==== Sys2Proof/Machine/AdcBitCollector.lean ====
section
/-! DEFINITION. adc_bit_collector: READ (42_adc_bit_collector R141). -/

namespace Sys2Proof.Machine

/-- READ's row of the opcode map and of R164. -/
def rowRead (c : Params) : Row c := { code := 0b100#3, start := enterRead, syncEnd := none }

/-- READ (R141): W sampled pulses, most significant bit first, committed as one sample. -/
def execRead (s : State) : Host.Outcome State Fault Refusal := commandStep (rowRead s.cfg) s.fr

end Sys2Proof.Machine
end

