-- ==== Sys2Proof/Machine/ClockGenerator.lean ====
section
/-! DEFINITION. clock_generator: PULSE and FLUSH (40_clock_generator R105, R106). -/

namespace Sys2Proof.Machine

/-- PULSE's row of the opcode map and of R164. -/
def rowPulse (c : Params) : Row c := { code := 0b001#3, start := enterPulse, syncEnd := none }

/-- PULSE (R105): one sampled pulse, then `Respond(OK)`. -/
def execPulse (s : State) : Host.Outcome State Fault Refusal := commandStep (rowPulse s.cfg) s.fr

/-- FLUSH's row of the opcode map and of R164. -/
def rowFlush (c : Params) : Row c := { code := 0b010#3, start := enterFlush, syncEnd := none }

/-- FLUSH (R106): P pulses without sampling, then `Respond(OK)`. -/
def execFlush (s : State) : Host.Outcome State Fault Refusal := commandStep (rowFlush s.cfg) s.fr

end Sys2Proof.Machine
end

