-- ==== Sys2Proof/Machine/FrameSynchronizer.lean ====
section
/-! DEFINITION. frame_synchronizer: SYNC (41_frame_synchronizer R121). -/

namespace Sys2Proof.Machine

/-- SYNC's row of the opcode map and of R164: its SYNC phase ends in `Respond(OK)`. -/
def rowSync (c : Params) : Row c := { code := 0b011#3, start := enterSync, syncEnd := some (respond .ok) }

/-- SYNC (R121): pulses until K consecutive zeros have been sampled, or a cancel. -/
def execSync (s : State) : Host.Outcome State Fault Refusal := commandStep (rowSync s.cfg) s.fr

end Sys2Proof.Machine
end

