-- ==== Sys2Proof/Machine/SerialFramer.lean ====
section
/-! DEFINITION. The top level: ACQUIRE, STARTUP and the reserved codes (43_serial_framer R161, R162, R163). -/

namespace Sys2Proof.Machine

/-- ACQUIRE's row of the opcode map and of R164: its SYNC phase ends in `EnterRead()`. -/
def rowAcquire (c : Params) : Row c := { code := 0b101#3, start := enterSync, syncEnd := some enterRead }

/-- ACQUIRE (R161): a SYNC phase, then a READ phase, as one command. -/
def execAcquire (s : State) : Host.Outcome State Fault Refusal := commandStep (rowAcquire s.cfg) s.fr

/-- STARTUP's row of the opcode map and of R164: its SYNC phase ends in `EnterFlush()`. -/
def rowStartup (c : Params) : Row c := { code := 0b110#3, start := enterSync, syncEnd := some enterFlush }

/-- STARTUP (R162): a SYNC phase whose frame is discarded, then a FLUSH phase, as one command. -/
def execStartup (s : State) : Host.Outcome State Fault Refusal := commandStep (rowStartup s.cfg) s.fr

/-- The reserved code 0b000: answered at its acceptance, no phase. -/
def rowRsvd0 (c : Params) : Row c := { code := 0b000#3, start := respond .illegal, syncEnd := none }

/-- RSVD0 (R163): `op <- code` and `Respond(ILLEGAL)`, no pulse. -/
def execRsvd0 (s : State) : Host.Outcome State Fault Refusal := commandStep (rowRsvd0 s.cfg) s.fr

/-- The reserved code 0b111: answered at its acceptance, no phase. -/
def rowRsvd7 (c : Params) : Row c := { code := 0b111#3, start := respond .illegal, syncEnd := none }

/-- RSVD7 (R163): `op <- code` and `Respond(ILLEGAL)`, no pulse. -/
def execRsvd7 (s : State) : Host.Outcome State Fault Refusal := commandStep (rowRsvd7 s.cfg) s.fr

/-- The row of each command. -/
def rowOf (c : Params) : Instr → Row c
  | .rsvd0 => rowRsvd0 c
  | .pulse => rowPulse c
  | .flush => rowFlush c
  | .sync => rowSync c
  | .read => rowRead c
  | .acquire => rowAcquire c
  | .startup => rowStartup c
  | .rsvd7 => rowRsvd7 c

end Sys2Proof.Machine
end

