-- ==== Sys2Proof/Machine/Dispatch.lean ====
section
/-! DEFINITION. One arm per command: one step of the command's meaning. -/

namespace Sys2Proof.Machine

def exec (i : Instr) (s : State) : Host.Outcome State Fault Refusal :=
  match i with
  | .rsvd0 => Sys2Proof.Machine.execRsvd0 s
  | .pulse => Sys2Proof.Machine.execPulse s
  | .flush => Sys2Proof.Machine.execFlush s
  | .sync => Sys2Proof.Machine.execSync s
  | .read => Sys2Proof.Machine.execRead s
  | .acquire => Sys2Proof.Machine.execAcquire s
  | .startup => Sys2Proof.Machine.execStartup s
  | .rsvd7 => Sys2Proof.Machine.execRsvd7 s

end Sys2Proof.Machine
end

