-- ==== Sys2Proof/Machine/Step.lean ====
section
/-! DEFINITION. One step of the machine, and placing the command it runs next. -/

namespace Sys2Proof.Machine

/-- One step boundary (43_serial_framer R160): the block's step, then the host's turn. -/
def step (s : State) : Host.Outcome State Fault Refusal := boundary exec s

/-- `s` with the command of the opcode-table word `w` presented so that the next step accepts it: the block has no
memory and fetches nothing (20_memory R63), so its command comes from the host over the command port (log entry 9). -/
def State.withFetchWord (s : State) (nbits w : Nat) : State :=
  ⟨s.cfg, presented (BitVec.ofNat 3 (w % 2 ^ nbits)) s.fr⟩

end Sys2Proof.Machine
end

