-- ==== Sys2Proof/Laws/State.lean ====
section
/-! SUPPORT. Beside the state: what each small operation does to each field, one lemma a field, true by unfolding. -/

namespace Sys2Proof.Machine

variable {c : Params}

/-! ### latchBit -/

@[simp] theorem latchBit_fsm (b : Bit) (m : Framer c) : (latchBit b m).fsm = m.fsm := rfl
@[simp] theorem latchBit_op (b : Bit) (m : Framer c) : (latchBit b m).op = m.op := rfl
@[simp] theorem latchBit_zrun (b : Bit) (m : Framer c) : (latchBit b m).zrun = m.zrun := rfl
@[simp] theorem latchBit_cnt (b : Bit) (m : Framer c) : (latchBit b m).cnt = m.cnt := rfl
@[simp] theorem latchBit_shreg (b : Bit) (m : Framer c) : (latchBit b m).shreg = m.shreg := rfl
@[simp] theorem latchBit_sample (b : Bit) (m : Framer c) : (latchBit b m).sample = m.sample := rfl
@[simp] theorem latchBit_sampleValid (b : Bit) (m : Framer c) : (latchBit b m).sampleValid = m.sampleValid := rfl
@[simp] theorem latchBit_synced (b : Bit) (m : Framer c) : (latchBit b m).synced = false := rfl
@[simp] theorem latchBit_lastBit (b : Bit) (m : Framer c) : (latchBit b m).lastBit = b := rfl
@[simp] theorem latchBit_respStatus (b : Bit) (m : Framer c) : (latchBit b m).respStatus = m.respStatus := rfl
@[simp] theorem latchBit_respValid (b : Bit) (m : Framer c) : (latchBit b m).respValid = m.respValid := rfl
@[simp] theorem latchBit_sclk (b : Bit) (m : Framer c) : (latchBit b m).sclk = m.sclk := rfl
@[simp] theorem latchBit_hold (b : Bit) (m : Framer c) : (latchBit b m).hold = m.hold := rfl
@[simp] theorem latchBit_line (b : Bit) (m : Framer c) : (latchBit b m).line = m.line := rfl
@[simp] theorem latchBit_port (b : Bit) (m : Framer c) : (latchBit b m).port = m.port := rfl
@[simp] theorem latchBit_started (b : Bit) (m : Framer c) : (latchBit b m).started = m.started := rfl
@[simp] theorem latchBit_pulses (b : Bit) (m : Framer c) : (latchBit b m).pulses = m.pulses := rfl

/-! ### clearSynced -/

@[simp] theorem clearSynced_fsm (m : Framer c) : (clearSynced m).fsm = m.fsm := rfl
@[simp] theorem clearSynced_op (m : Framer c) : (clearSynced m).op = m.op := rfl
@[simp] theorem clearSynced_zrun (m : Framer c) : (clearSynced m).zrun = m.zrun := rfl
@[simp] theorem clearSynced_cnt (m : Framer c) : (clearSynced m).cnt = m.cnt := rfl
@[simp] theorem clearSynced_shreg (m : Framer c) : (clearSynced m).shreg = m.shreg := rfl
@[simp] theorem clearSynced_sample (m : Framer c) : (clearSynced m).sample = m.sample := rfl
@[simp] theorem clearSynced_sampleValid (m : Framer c) : (clearSynced m).sampleValid = m.sampleValid := rfl
@[simp] theorem clearSynced_synced (m : Framer c) : (clearSynced m).synced = false := rfl
@[simp] theorem clearSynced_lastBit (m : Framer c) : (clearSynced m).lastBit = m.lastBit := rfl
@[simp] theorem clearSynced_respStatus (m : Framer c) : (clearSynced m).respStatus = m.respStatus := rfl
@[simp] theorem clearSynced_respValid (m : Framer c) : (clearSynced m).respValid = m.respValid := rfl
@[simp] theorem clearSynced_sclk (m : Framer c) : (clearSynced m).sclk = m.sclk := rfl
@[simp] theorem clearSynced_hold (m : Framer c) : (clearSynced m).hold = m.hold := rfl
@[simp] theorem clearSynced_line (m : Framer c) : (clearSynced m).line = m.line := rfl
@[simp] theorem clearSynced_port (m : Framer c) : (clearSynced m).port = m.port := rfl
@[simp] theorem clearSynced_started (m : Framer c) : (clearSynced m).started = m.started := rfl
@[simp] theorem clearSynced_pulses (m : Framer c) : (clearSynced m).pulses = m.pulses := rfl

/-! ### clearResp -/

@[simp] theorem clearResp_fsm (m : Framer c) : (clearResp m).fsm = m.fsm := rfl
@[simp] theorem clearResp_op (m : Framer c) : (clearResp m).op = m.op := rfl
@[simp] theorem clearResp_zrun (m : Framer c) : (clearResp m).zrun = m.zrun := rfl
@[simp] theorem clearResp_cnt (m : Framer c) : (clearResp m).cnt = m.cnt := rfl
@[simp] theorem clearResp_shreg (m : Framer c) : (clearResp m).shreg = m.shreg := rfl
@[simp] theorem clearResp_sample (m : Framer c) : (clearResp m).sample = m.sample := rfl
@[simp] theorem clearResp_sampleValid (m : Framer c) : (clearResp m).sampleValid = m.sampleValid := rfl
@[simp] theorem clearResp_synced (m : Framer c) : (clearResp m).synced = m.synced := rfl
@[simp] theorem clearResp_lastBit (m : Framer c) : (clearResp m).lastBit = m.lastBit := rfl
@[simp] theorem clearResp_respStatus (m : Framer c) : (clearResp m).respStatus = m.respStatus := rfl
@[simp] theorem clearResp_respValid (m : Framer c) : (clearResp m).respValid = false := rfl
@[simp] theorem clearResp_sclk (m : Framer c) : (clearResp m).sclk = m.sclk := rfl
@[simp] theorem clearResp_hold (m : Framer c) : (clearResp m).hold = m.hold := rfl
@[simp] theorem clearResp_line (m : Framer c) : (clearResp m).line = m.line := rfl
@[simp] theorem clearResp_port (m : Framer c) : (clearResp m).port = m.port := rfl
@[simp] theorem clearResp_started (m : Framer c) : (clearResp m).started = m.started := rfl
@[simp] theorem clearResp_pulses (m : Framer c) : (clearResp m).pulses = m.pulses := rfl

/-! ### respond -/

@[simp] theorem respond_fsm (st : Status) (m : Framer c) : (respond st m).fsm = .idle := rfl
@[simp] theorem respond_op (st : Status) (m : Framer c) : (respond st m).op = m.op := rfl
@[simp] theorem respond_zrun (st : Status) (m : Framer c) : (respond st m).zrun = m.zrun := rfl
@[simp] theorem respond_cnt (st : Status) (m : Framer c) : (respond st m).cnt = m.cnt := rfl
@[simp] theorem respond_shreg (st : Status) (m : Framer c) : (respond st m).shreg = m.shreg := rfl
@[simp] theorem respond_sample (st : Status) (m : Framer c) : (respond st m).sample = m.sample := rfl
@[simp] theorem respond_sampleValid (st : Status) (m : Framer c) : (respond st m).sampleValid = m.sampleValid := rfl
@[simp] theorem respond_synced (st : Status) (m : Framer c) : (respond st m).synced = m.synced := rfl
@[simp] theorem respond_lastBit (st : Status) (m : Framer c) : (respond st m).lastBit = m.lastBit := rfl
@[simp] theorem respond_respStatus (st : Status) (m : Framer c) : (respond st m).respStatus = st := rfl
@[simp] theorem respond_respValid (st : Status) (m : Framer c) : (respond st m).respValid = true := rfl
@[simp] theorem respond_sclk (st : Status) (m : Framer c) : (respond st m).sclk = m.sclk := rfl
@[simp] theorem respond_hold (st : Status) (m : Framer c) : (respond st m).hold = m.hold := rfl
@[simp] theorem respond_line (st : Status) (m : Framer c) : (respond st m).line = m.line := rfl
@[simp] theorem respond_port (st : Status) (m : Framer c) : (respond st m).port = m.port := rfl
@[simp] theorem respond_started (st : Status) (m : Framer c) : (respond st m).started = m.started := rfl
@[simp] theorem respond_pulses (st : Status) (m : Framer c) : (respond st m).pulses = m.pulses := rfl

/-! ### enterPulse -/

@[simp] theorem enterPulse_fsm (m : Framer c) : (enterPulse m).fsm = .pulse := rfl
@[simp] theorem enterPulse_op (m : Framer c) : (enterPulse m).op = m.op := rfl
@[simp] theorem enterPulse_zrun (m : Framer c) : (enterPulse m).zrun = m.zrun := rfl
@[simp] theorem enterPulse_cnt (m : Framer c) : (enterPulse m).cnt = m.cnt := rfl
@[simp] theorem enterPulse_shreg (m : Framer c) : (enterPulse m).shreg = m.shreg := rfl
@[simp] theorem enterPulse_sample (m : Framer c) : (enterPulse m).sample = m.sample := rfl
@[simp] theorem enterPulse_sampleValid (m : Framer c) : (enterPulse m).sampleValid = m.sampleValid := rfl
@[simp] theorem enterPulse_synced (m : Framer c) : (enterPulse m).synced = m.synced := rfl
@[simp] theorem enterPulse_lastBit (m : Framer c) : (enterPulse m).lastBit = m.lastBit := rfl
@[simp] theorem enterPulse_respStatus (m : Framer c) : (enterPulse m).respStatus = m.respStatus := rfl
@[simp] theorem enterPulse_respValid (m : Framer c) : (enterPulse m).respValid = m.respValid := rfl
@[simp] theorem enterPulse_sclk (m : Framer c) : (enterPulse m).sclk = m.sclk := rfl
@[simp] theorem enterPulse_hold (m : Framer c) : (enterPulse m).hold = m.hold := rfl
@[simp] theorem enterPulse_line (m : Framer c) : (enterPulse m).line = m.line := rfl
@[simp] theorem enterPulse_port (m : Framer c) : (enterPulse m).port = m.port := rfl
@[simp] theorem enterPulse_started (m : Framer c) : (enterPulse m).started = m.started := rfl
@[simp] theorem enterPulse_pulses (m : Framer c) : (enterPulse m).pulses = m.pulses := rfl

/-! ### enterFlush -/

@[simp] theorem enterFlush_fsm (m : Framer c) : (enterFlush m).fsm = .flush := rfl
@[simp] theorem enterFlush_op (m : Framer c) : (enterFlush m).op = m.op := rfl
@[simp] theorem enterFlush_zrun (m : Framer c) : (enterFlush m).zrun = m.zrun := rfl
@[simp] theorem enterFlush_cnt (m : Framer c) : (enterFlush m).cnt = 0 := rfl
@[simp] theorem enterFlush_shreg (m : Framer c) : (enterFlush m).shreg = m.shreg := rfl
@[simp] theorem enterFlush_sample (m : Framer c) : (enterFlush m).sample = m.sample := rfl
@[simp] theorem enterFlush_sampleValid (m : Framer c) : (enterFlush m).sampleValid = m.sampleValid := rfl
@[simp] theorem enterFlush_synced (m : Framer c) : (enterFlush m).synced = m.synced := rfl
@[simp] theorem enterFlush_lastBit (m : Framer c) : (enterFlush m).lastBit = m.lastBit := rfl
@[simp] theorem enterFlush_respStatus (m : Framer c) : (enterFlush m).respStatus = m.respStatus := rfl
@[simp] theorem enterFlush_respValid (m : Framer c) : (enterFlush m).respValid = m.respValid := rfl
@[simp] theorem enterFlush_sclk (m : Framer c) : (enterFlush m).sclk = m.sclk := rfl
@[simp] theorem enterFlush_hold (m : Framer c) : (enterFlush m).hold = m.hold := rfl
@[simp] theorem enterFlush_line (m : Framer c) : (enterFlush m).line = m.line := rfl
@[simp] theorem enterFlush_port (m : Framer c) : (enterFlush m).port = m.port := rfl
@[simp] theorem enterFlush_started (m : Framer c) : (enterFlush m).started = m.started := rfl
@[simp] theorem enterFlush_pulses (m : Framer c) : (enterFlush m).pulses = m.pulses := rfl

/-! ### enterSync -/

@[simp] theorem enterSync_fsm (m : Framer c) : (enterSync m).fsm = .sync := rfl
@[simp] theorem enterSync_op (m : Framer c) : (enterSync m).op = m.op := rfl
@[simp] theorem enterSync_zrun (m : Framer c) : (enterSync m).zrun = 0 := rfl
@[simp] theorem enterSync_cnt (m : Framer c) : (enterSync m).cnt = m.cnt := rfl
@[simp] theorem enterSync_shreg (m : Framer c) : (enterSync m).shreg = m.shreg := rfl
@[simp] theorem enterSync_sample (m : Framer c) : (enterSync m).sample = m.sample := rfl
@[simp] theorem enterSync_sampleValid (m : Framer c) : (enterSync m).sampleValid = m.sampleValid := rfl
@[simp] theorem enterSync_synced (m : Framer c) : (enterSync m).synced = m.synced := rfl
@[simp] theorem enterSync_lastBit (m : Framer c) : (enterSync m).lastBit = m.lastBit := rfl
@[simp] theorem enterSync_respStatus (m : Framer c) : (enterSync m).respStatus = m.respStatus := rfl
@[simp] theorem enterSync_respValid (m : Framer c) : (enterSync m).respValid = m.respValid := rfl
@[simp] theorem enterSync_sclk (m : Framer c) : (enterSync m).sclk = m.sclk := rfl
@[simp] theorem enterSync_hold (m : Framer c) : (enterSync m).hold = m.hold := rfl
@[simp] theorem enterSync_line (m : Framer c) : (enterSync m).line = m.line := rfl
@[simp] theorem enterSync_port (m : Framer c) : (enterSync m).port = m.port := rfl
@[simp] theorem enterSync_started (m : Framer c) : (enterSync m).started = m.started := rfl
@[simp] theorem enterSync_pulses (m : Framer c) : (enterSync m).pulses = m.pulses := rfl

/-! ### enterRead -/

@[simp] theorem enterRead_fsm (m : Framer c) : (enterRead m).fsm = .read := rfl
@[simp] theorem enterRead_op (m : Framer c) : (enterRead m).op = m.op := rfl
@[simp] theorem enterRead_zrun (m : Framer c) : (enterRead m).zrun = m.zrun := rfl
@[simp] theorem enterRead_cnt (m : Framer c) : (enterRead m).cnt = 0 := rfl
@[simp] theorem enterRead_shreg (m : Framer c) : (enterRead m).shreg = 0 := rfl
@[simp] theorem enterRead_sample (m : Framer c) : (enterRead m).sample = m.sample := rfl
@[simp] theorem enterRead_sampleValid (m : Framer c) : (enterRead m).sampleValid = m.sampleValid := rfl
@[simp] theorem enterRead_synced (m : Framer c) : (enterRead m).synced = m.synced := rfl
@[simp] theorem enterRead_lastBit (m : Framer c) : (enterRead m).lastBit = m.lastBit := rfl
@[simp] theorem enterRead_respStatus (m : Framer c) : (enterRead m).respStatus = m.respStatus := rfl
@[simp] theorem enterRead_respValid (m : Framer c) : (enterRead m).respValid = m.respValid := rfl
@[simp] theorem enterRead_sclk (m : Framer c) : (enterRead m).sclk = m.sclk := rfl
@[simp] theorem enterRead_hold (m : Framer c) : (enterRead m).hold = m.hold := rfl
@[simp] theorem enterRead_line (m : Framer c) : (enterRead m).line = m.line := rfl
@[simp] theorem enterRead_port (m : Framer c) : (enterRead m).port = m.port := rfl
@[simp] theorem enterRead_started (m : Framer c) : (enterRead m).started = m.started := rfl
@[simp] theorem enterRead_pulses (m : Framer c) : (enterRead m).pulses = m.pulses := rfl

/-! ### The clock line: driveClk and the two edges of a pulse -/

@[simp] theorem driveClk_fsm (l : Bit) (m : Framer c) : (driveClk l m).fsm = m.fsm := by
  unfold driveClk; split <;> rfl
@[simp] theorem driveClk_op (l : Bit) (m : Framer c) : (driveClk l m).op = m.op := by
  unfold driveClk; split <;> rfl
@[simp] theorem driveClk_zrun (l : Bit) (m : Framer c) : (driveClk l m).zrun = m.zrun := by
  unfold driveClk; split <;> rfl
@[simp] theorem driveClk_cnt (l : Bit) (m : Framer c) : (driveClk l m).cnt = m.cnt := by
  unfold driveClk; split <;> rfl
@[simp] theorem driveClk_shreg (l : Bit) (m : Framer c) : (driveClk l m).shreg = m.shreg := by
  unfold driveClk; split <;> rfl
@[simp] theorem driveClk_sample (l : Bit) (m : Framer c) : (driveClk l m).sample = m.sample := by
  unfold driveClk; split <;> rfl
@[simp] theorem driveClk_sampleValid (l : Bit) (m : Framer c) : (driveClk l m).sampleValid = m.sampleValid := by
  unfold driveClk; split <;> rfl
@[simp] theorem driveClk_synced (l : Bit) (m : Framer c) : (driveClk l m).synced = m.synced := by
  unfold driveClk; split <;> rfl
@[simp] theorem driveClk_lastBit (l : Bit) (m : Framer c) : (driveClk l m).lastBit = m.lastBit := by
  unfold driveClk; split <;> rfl
@[simp] theorem driveClk_respStatus (l : Bit) (m : Framer c) : (driveClk l m).respStatus = m.respStatus := by
  unfold driveClk; split <;> rfl
@[simp] theorem driveClk_respValid (l : Bit) (m : Framer c) : (driveClk l m).respValid = m.respValid := by
  unfold driveClk; split <;> rfl
@[simp] theorem driveClk_sclk (l : Bit) (m : Framer c) : (driveClk l m).sclk = l := by
  unfold driveClk; split <;> rfl
@[simp] theorem driveClk_hold (l : Bit) (m : Framer c) : (driveClk l m).hold = m.hold := by
  unfold driveClk; split <;> rfl
@[simp] theorem driveClk_port (l : Bit) (m : Framer c) : (driveClk l m).port = m.port := by
  unfold driveClk; split <;> rfl
@[simp] theorem driveClk_started (l : Bit) (m : Framer c) : (driveClk l m).started = m.started := by
  unfold driveClk; split <;> rfl
@[simp] theorem pulseEdges_fsm (m : Framer c) : (pulseEdges m).fsm = m.fsm := by simp [pulseEdges]
@[simp] theorem pulseEdges_op (m : Framer c) : (pulseEdges m).op = m.op := by simp [pulseEdges]
@[simp] theorem pulseEdges_zrun (m : Framer c) : (pulseEdges m).zrun = m.zrun := by simp [pulseEdges]
@[simp] theorem pulseEdges_cnt (m : Framer c) : (pulseEdges m).cnt = m.cnt := by simp [pulseEdges]
@[simp] theorem pulseEdges_shreg (m : Framer c) : (pulseEdges m).shreg = m.shreg := by simp [pulseEdges]
@[simp] theorem pulseEdges_sample (m : Framer c) : (pulseEdges m).sample = m.sample := by simp [pulseEdges]
@[simp] theorem pulseEdges_sampleValid (m : Framer c) : (pulseEdges m).sampleValid = m.sampleValid := by simp [pulseEdges]
@[simp] theorem pulseEdges_synced (m : Framer c) : (pulseEdges m).synced = m.synced := by simp [pulseEdges]
@[simp] theorem pulseEdges_lastBit (m : Framer c) : (pulseEdges m).lastBit = m.lastBit := by simp [pulseEdges]
@[simp] theorem pulseEdges_respStatus (m : Framer c) : (pulseEdges m).respStatus = m.respStatus := by simp [pulseEdges]
@[simp] theorem pulseEdges_respValid (m : Framer c) : (pulseEdges m).respValid = m.respValid := by simp [pulseEdges]
@[simp] theorem pulseEdges_sclk (m : Framer c) : (pulseEdges m).sclk = true := by simp [pulseEdges]
@[simp] theorem pulseEdges_hold (m : Framer c) : (pulseEdges m).hold = m.hold := by simp [pulseEdges]
@[simp] theorem pulseEdges_port (m : Framer c) : (pulseEdges m).port = m.port := by simp [pulseEdges]
@[simp] theorem pulseEdges_started (m : Framer c) : (pulseEdges m).started = m.started := by simp [pulseEdges]

/-- From the idle level, a pulse makes one falling edge: the converter shifts once, and the clock ends high (R100, R102). -/
theorem pulseEdges_of_high (m : Framer c) (h : m.sclk = true) :
    pulseEdges m = { m with line := m.line.shift, pulses := m.pulses + 1 } := by
  cases m
  simp_all [pulseEdges, driveClk]

@[simp] theorem pulseEdges_line (m : Framer c) (h : m.sclk = true) : (pulseEdges m).line = m.line.shift := by
  rw [pulseEdges_of_high m h]

@[simp] theorem pulseEdges_pulses (m : Framer c) (h : m.sclk = true) : (pulseEdges m).pulses = m.pulses + 1 := by
  rw [pulseEdges_of_high m h]

/-! ### Reset and the host's turn -/

@[simp] theorem resetStep_fsm (m : Framer c) : (resetStep m).fsm = .idle := rfl
@[simp] theorem resetStep_op (m : Framer c) : (resetStep m).op = 0b000#3 := rfl
@[simp] theorem resetStep_zrun (m : Framer c) : (resetStep m).zrun = 0 := rfl
@[simp] theorem resetStep_cnt (m : Framer c) : (resetStep m).cnt = 0 := rfl
@[simp] theorem resetStep_shreg (m : Framer c) : (resetStep m).shreg = 0 := rfl
@[simp] theorem resetStep_sample (m : Framer c) : (resetStep m).sample = 0 := rfl
@[simp] theorem resetStep_sampleValid (m : Framer c) : (resetStep m).sampleValid = false := rfl
@[simp] theorem resetStep_synced (m : Framer c) : (resetStep m).synced = false := rfl
@[simp] theorem resetStep_lastBit (m : Framer c) : (resetStep m).lastBit = true := rfl
@[simp] theorem resetStep_respStatus (m : Framer c) : (resetStep m).respStatus = .ok := rfl
@[simp] theorem resetStep_respValid (m : Framer c) : (resetStep m).respValid = false := rfl
@[simp] theorem resetStep_sclk (m : Framer c) : (resetStep m).sclk = true := rfl
@[simp] theorem resetStep_hold (m : Framer c) : (resetStep m).hold = false := rfl
@[simp] theorem resetStep_line (m : Framer c) : (resetStep m).line = if resetMidPulse m then m.line.shift else m.line := rfl
@[simp] theorem resetStep_port (m : Framer c) : (resetStep m).port = m.port := rfl
@[simp] theorem resetStep_started (m : Framer c) : (resetStep m).started = true := rfl
@[simp] theorem resetStep_pulses (m : Framer c) : (resetStep m).pulses = 0 := rfl

@[simp] theorem hostTurn_cfg (a : Bool) (n : Nat) (s : State) : (hostTurn a n s).cfg = s.cfg := rfl
@[simp] theorem hostTurn_mk (a : Bool) (n : Nat) (m : Framer c) :
    hostTurn a n ⟨c, m⟩ = ⟨c, { m with port := m.port.turn a n }⟩ := rfl

/-! ### The converter -/

@[simp] theorem Converter_shift_driven (v : Converter) : v.shift.driven = v.driven := rfl
@[simp] theorem Converter_shift_out (v : Converter) : v.shift.out = v.draw := rfl
@[simp] theorem Converter_shift_named (v : Converter) : v.shift.named = v.named.tail := rfl
@[simp] theorem Converter_shift_pos (v : Converter) : v.shift.pos = v.pos + 1 := rfl

/-! ### The host's ports -/

@[simp] theorem HostPort_turn_taken (a : Bool) (n : Nat) (h : HostPort) :
    (h.turn a n).taken = if h.readSample then some n else h.taken := rfl
@[simp] theorem HostPort_turn_plan (a : Bool) (n : Nat) (h : HostPort) : (h.turn a n).plan = h.plan.tail := rfl

end Sys2Proof.Machine
end

