-- ==== Sys2Proof/Machine/Cycle.lean ====
section
/-! DEFINITION. The reference cycle-level timing (70_reset_and_hazards R250 to R252), a layer under the pulse-level
machine. It is informative: no pulse-level definition depends on it (log entry 15). -/

namespace Sys2Proof.Machine

/-- The OPEN timing parameters, cycles of `clk_i` (00_scope R11). -/
structure Timing where
  /-- Cycles the clock line is low in one pulse. -/
  tLow : Nat
  /-- Cycles from the rising edge to the data sample. -/
  tHigh : Nat
  deriving DecidableEq, Repr

/-- T_LOW >= 1 and T_HIGH >= 1 (00_scope R11). -/
abbrev Timing.Legal (t : Timing) : Prop := 1 ≤ t.tLow ∧ 1 ≤ t.tHigh

/-- S, the length of a pulse slot (R250, R251). -/
def Timing.slotLength (t : Timing) : Nat := 1 + t.tLow + t.tHigh

/-- The block between two edges of `clk_i`. -/
structure CycleState (c : Params) where
  /-- The registers, the lines and the host. -/
  fr : Framer c
  /-- How many cycles of the pulse slot are over: 0 in the slot's first cycle. -/
  slot : Nat
  /-- The first register of the data line's synchronizer (R252). -/
  ff1 : Bit
  /-- Its second register: the line's level two cycles earlier. -/
  ff2 : Bit
  deriving DecidableEq, Repr

/-- The block's own registers at one edge of a busy block (R250 (a) to (c)), `row` being the command in progress. -/
def busyEdge {c : Params} (t : Timing) (row : Row c) (s : CycleState c) : Option (Framer c × Nat) :=
  let m := clearResp s.fr
  if s.slot = 0 then
    if m.fsm = .sync ∧ m.port.cancel = true then some (respond .cancelled m, 0) else some (driveClk false m, 1)
  else if s.slot < t.tLow then some (m, s.slot + 1)
  else if s.slot = t.tLow then some (driveClk true m, s.slot + 1)
  else if s.slot < t.tLow + t.tHigh then some (m, s.slot + 1)
  else (phaseUpdate row s.ff2 m).map (fun u => (u, 0))

/-- The block's own registers at one edge: reset first, then the idle arm or the busy one. A reset finds the converter
where its falling edges have left it (R233). -/
def blockEdge {c : Params} (t : Timing) (s : CycleState c) : Option (Framer c × Nat) :=
  if s.fr.port.rst then some (Framer.reset c s.fr.line s.fr.port, 0)
  else if s.fr.fsm = .idle then
    if accepts s.fr then some (accept (rowOf c (decode s.fr.port.cmdOp)) s.fr, 0) else some (idleStep s.fr, 0)
  else busyEdge t (rowOf c (decode s.fr.op)) s

/-- One rising edge of `clk_i`: the block, the synchronizer, and the host's turn. As in a step of the machine, a
configuration outside the legal range is refused first (00_scope R8). DESIGN CHOICE (log entry 15): so is a timing outside
the range of 00_scope R11, of which the spec says nothing more. DESIGN CHOICE (log entry 15): `rst_i` does not reset the
two synchronizer registers, for which the spec gives no reset value; they go on sampling the line. -/
def cycleStep {c : Params} (t : Timing) (s : CycleState c) : Host.Outcome (CycleState c) Fault Refusal :=
  if ¬ (c.Legal ∧ t.Legal) then .refused .illegalConfig
  else if badRead s.fr then .fault .sampleNotValid
  else if s.fr.port.rst = false ∧ s.fr.started = false then .fault .noResetYet
  else
    match blockEdge t s with
    | some (m, n) =>
      .next { fr := { m with port := m.port.turn (accepts s.fr) s.fr.sample.toNat }
              slot := n, ff1 := readData s.fr, ff2 := s.ff1 }
    | none => .refused .noSyncEnd

/-- Reference latency of a command cancelled after `j` SYNC pulses (R251). -/
def cancelLatency (t : Timing) (j : Nat) : Nat := j * t.slotLength + 1

/-- `n` edges, stopping at the first fault or refusal. -/
def cycles {c : Params} (t : Timing) : Nat → CycleState c → Host.Outcome (CycleState c) Fault Refusal
  | 0, s => .next s
  | n + 1, s =>
    match cycleStep t s with
    | .next s' => cycles t n s'
    | .fault f => .fault f
    | .refused r => .refused r

/-- Reference latency from the acceptance edge to the edge that raises the response, for a command that is not
cancelled and whose SYNC phase, if it has one, takes `n` pulses (R251). -/
def latency (t : Timing) (c : Params) (n : Nat) : Instr → Nat
  | .rsvd0 => 0
  | .pulse => t.slotLength
  | .flush => c.p * t.slotLength
  | .sync => n * t.slotLength
  | .read => c.w * t.slotLength
  | .acquire => (n + c.w) * t.slotLength
  | .startup => (n + c.p) * t.slotLength
  | .rsvd7 => 0

end Sys2Proof.Machine
end

