-- ==== Sys2Proof/Safety.lean ====
section
/-! DEFINITION. The invariant of the machine, the premises claims name about the host, and what counts as a safe run. -/

namespace Sys2Proof.Machine

/-- What holds of the registers in each phase of the command in progress (43_serial_framer R164; 10_state R32 to R34). -/
def PhaseInv {c : Params} (m : Framer c) : Prop :=
  match m.fsm with
  | .idle => True
  | .pulse => decode m.op = .pulse
  | .flush =>
    (decode m.op = .flush ∨ decode m.op = .startup) ∧ m.cnt.toNat < c.p ∧ (m.cnt.toNat ≠ 0 → m.synced = false)
  | .sync =>
    (decode m.op).startsWithSync = true ∧ m.zrun.toNat < c.k ∧ (m.synced = true → m.zrun.toNat = 0) ∧
      (m.zrun.toNat ≠ 0 → m.lastBit = false)
  | .read =>
    (decode m.op = .read ∨ decode m.op = .acquire) ∧ m.cnt.toNat < c.w ∧ m.shreg.toNat < 2 ^ m.cnt.toNat ∧
      (m.cnt.toNat ≠ 0 → m.synced = false)

/-- What holds of the registers of a block that has been reset. -/
structure RegsInv {c : Params} (m : Framer c) : Prop where
  /-- The clock line is high at every step boundary (40_clock_generator R102). -/
  sclk_high : m.sclk = true
  /-- The HOLD line is low (10_state R27). -/
  hold_low : m.hold = false
  /-- `zrun` never exceeds K (41_frame_synchronizer R124). -/
  zrun_le : m.zrun.toNat ≤ c.k
  /-- `cnt` never exceeds max(W, P) (10_state R33). -/
  cnt_le : m.cnt.toNat ≤ max c.w c.p
  /-- A response is shown by an IDLE block (30_encoding R82). -/
  resp_idle : m.respValid = true → m.fsm = .idle
  /-- The bit that completed a marker is a 0 (41_frame_synchronizer R121). -/
  synced_bit : m.synced = true → m.lastBit = false
  /-- While a marker is the last thing on the line, `zrun` is K, or 0 if a SYNC phase has begun since. -/
  synced_run : m.synced = true → m.zrun.toNat = 0 ∨ m.zrun.toNat = c.k
  /-- No sample is shown before the first one (10_state R46, R47). -/
  sample_none : m.sampleValid = false → m.sample = 0
  /-- Only a reserved code ends ILLEGAL, and it ends so (60_exceptions R202). -/
  status_illegal : m.respValid = true → (m.respStatus = .illegal ↔ (decode m.op).reserved = true)
  /-- Only a command with a SYNC phase ends CANCELLED (60_exceptions R202). -/
  status_cancelled : m.respValid = true → m.respStatus = .cancelled → (decode m.op).startsWithSync = true
  /-- What holds in the phase. -/
  phase : PhaseInv m

/-- The machine's invariant: before the first reset nothing is said (70_reset_and_hazards R234). -/
def Inv (s : State) : Prop := s.fr.started = true → RegsInv s.fr

/-! ### Named premises about the host (44_host_operations R194) -/

/-- The host asserts no reset at this boundary or at any later one. -/
def NoReset (h : HostPort) : Prop := h.rst = false ∧ ∀ mv ∈ h.plan, mv.rst = false

/-- The host does not read `sample_o` at this boundary or at any later one. -/
def NoRead (h : HostPort) : Prop := h.readSample = false ∧ ∀ mv ∈ h.plan, mv.readSample = false

/-- `cancel_i` is 0 at this boundary and at every later one. -/
def NoCancel (h : HostPort) : Prop := h.cancel = false ∧ ∀ mv ∈ h.plan, mv.cancel = false

/-- A machine the host lets run: a legal configuration, after its first reset, with no reset and no read to come. -/
structure Calm {c : Params} (m : Framer c) : Prop where
  /-- A legal configuration (00_scope R8). -/
  legal : c.Legal
  /-- The first reset is over (70_reset_and_hazards R234). -/
  started : m.started = true
  /-- No reset. -/
  noReset : NoReset m.port
  /-- No read of `sample_o`. -/
  noRead : NoRead m.port

/-- The framing premise: `synced_o` = 1 when READ is accepted (70_reset_and_hazards R238). -/
def FramedRead {c : Params} (m : Framer c) : Prop :=
  accepts m = true ∧ decode m.port.cmdOp = .read → m.synced = true

/-- The same premise at the start of a READ phase: `synced` is what it was when READ was accepted, or the marker of the
same ACQUIRE has just set it. Every claim on a READ's value names it (70_reset_and_hazards R238, 93 row READ). -/
def FramedPhase {c : Params} (m : Framer c) : Prop := m.synced = true

/-- The host's duty on `sample_o`: read it only while `sample_valid_o` = 1 (44_host_operations R194). -/
def ReadsOnlyValid {c : Params} (m : Framer c) : Prop := m.port.readSample = true → m.sampleValid = true

/-- The boundary shows STARTUP's OK response (70_reset_and_hazards R235 (4)). -/
def ShowsStartupDone (s : State) : Prop :=
  s.fr.respValid = true ∧ s.fr.respStatus = .ok ∧ decode s.fr.op = .startup

/-- The host's duty after a reset, a premise of claims that trust a sample: on the way from `s` to the machine `n` steps
later STARTUP has answered OK, and no reset has come since (44_host_operations R194; 70_reset_and_hazards R235, R236).
The acquisition loop keeps this duty by itself (`Loop.booted`). -/
def TrustedAfter (n : Nat) (s : State) : Prop :=
  ∃ j ≤ n, (∃ t, Sys2Proof.core.run j s = .next t ∧ ShowsStartupDone t) ∧
    ∀ i, j ≤ i → i < n → ∀ t, Sys2Proof.core.run i s = .next t → t.fr.port.rst = false

/-- A safe run: no number of steps ends in a fault or a refusal. -/
def SafeRun (s : State) : Prop := ∀ n, ∃ t, Sys2Proof.core.run n s = .next t

/-! ### Streams -/

/-- The unsigned value of bits read most significant first, `Σ bit_i * 2^(n-1-i)` (42_adc_bit_collector R144). -/
def msbValue (bits : List Bit) : Nat :=
  ∑ i ∈ Finset.range bits.length, (bits.getD i false).toNat * 2 ^ (bits.length - 1 - i)

/-- The W-bit MSB-first spelling of `raw` (42_adc_bit_collector R145). -/
def msbSpelling : Nat → Nat → List Bit
  | 0, _ => []
  | w + 1, raw => raw.testBit w :: msbSpelling w raw

/-- The number of consecutive zeros a list of bits ends in (41_frame_synchronizer R125). -/
def trailingZeros (bits : List Bit) : Nat := bits.foldl (fun z b => if b then 0 else z + 1) 0

/-- A READ phase that starts at `m`, framed or not, ends at exactly its W-th pulse with the response OK, and no shorter
run ends it (42_adc_bit_collector R143, R148). Of the value it commits this says nothing. -/
def ReadTakesWPulses {c : Params} (m : Framer c) : Prop :=
  (∀ j < c.w, ∃ t : Framer c, Sys2Proof.core.run j ⟨c, m⟩ = .next ⟨c, t⟩ ∧ t.fsm = .read ∧
    t.sample = m.sample ∧ t.sampleValid = m.sampleValid) ∧
  ∃ t : Framer c, Sys2Proof.core.run c.w ⟨c, m⟩ = .next ⟨c, t⟩ ∧
    t.sampleValid = true ∧ t.fsm = .idle ∧ t.respValid = true ∧ t.respStatus = .ok ∧ t.synced = false ∧
    t.cnt.toNat = c.w ∧ t.line = Converter.shifts c.w m.line ∧ t.pulses = m.pulses + c.w

/-- A READ phase that starts at `m` ends with `sample` the MSB-first value of the W bits read, the i-th bit read being
`sample[W-1-i]` (42_adc_bit_collector R144). -/
def ReadCommitsItsBits {c : Params} (m : Framer c) : Prop :=
  ∃ t : Framer c, Sys2Proof.core.run c.w ⟨c, m⟩ = .next ⟨c, t⟩ ∧ t.sampleValid = true ∧
    t.sample.toNat = msbValue (Converter.upcoming c.w m.line) ∧
    ∀ i < c.w, (Converter.upcoming c.w m.line)[i]? = some (t.sample.getLsbD (c.w - 1 - i))

/-- A READ phase that starts at `m` gives the raw value `raw` (42_adc_bit_collector R145). -/
def ReadGives {c : Params} (m : Framer c) (raw : Nat) : Prop :=
  ∃ t : Framer c, Sys2Proof.core.run c.w ⟨c, m⟩ = .next ⟨c, t⟩ ∧ t.sampleValid = true ∧ t.sample.toNat = raw

/-- The `k` bits ending at the `n`-th are all 0 (41_frame_synchronizer R125). -/
def ZerosEndAt (k n : Nat) (bits : List Bit) : Prop := k ≤ n ∧ ∀ i, n - k ≤ i → i < n → bits[i]? = some false

/-- `n` is the least number of bits that end in `k` zeros: the pulse at which a search completes
(41_frame_synchronizer R125). -/
def CompletesAt (k n : Nat) (bits : List Bit) : Prop := ZerosEndAt k n bits ∧ ∀ j < n, ¬ ZerosEndAt k j bits

end Sys2Proof.Machine
end

