-- ==== Sys2Proof/Laws/Ops.lean ====
section
/-! SUPPORT. For each shared operation, what it can do: the lemmas the provers cite instead of unfolding it. -/

namespace Sys2Proof

/-! ### Counter widths (00_scope R9) -/

theorem clog2From_spec (n : Nat) : ∀ fuel c, n ≤ 2 ^ (c + fuel) → n ≤ 2 ^ clog2From n fuel c
  | 0, c, h => h
  | fuel + 1, c, h => by
    unfold clog2From
    split
    · assumption
    · exact clog2From_spec n fuel (c + 1) (by rwa [Nat.add_assoc, Nat.add_comm 1])

theorem clog2From_le (n k : Nat) (hk : n ≤ 2 ^ k) : ∀ fuel c, c ≤ k → clog2From n fuel c ≤ k
  | 0, _, h => h
  | fuel + 1, c, h => by
    unfold clog2From
    split
    · exact h
    · next hc =>
      refine clog2From_le n k hk fuel (c + 1) (Nat.lt_of_le_of_ne h ?_)
      rintro rfl
      exact hc hk

/-- `2^clog2(n) >= n`. -/
theorem le_two_pow_clog2 (n : Nat) : n ≤ 2 ^ clog2 n :=
  clog2From_spec n n 0 (by simpa using Nat.lt_two_pow_self.le)

/-- `clog2(n)` is the least such exponent. -/
theorem clog2_le_of_le_two_pow {n k : Nat} (h : n ≤ 2 ^ k) : clog2 n ≤ k := clog2From_le n k h n 0 (Nat.zero_le k)

theorem k_lt_two_pow_zw (c : Params) : c.k < 2 ^ c.zw := le_two_pow_clog2 (c.k + 1)

theorem max_lt_two_pow_cw (c : Params) : max c.w c.p < 2 ^ c.cw := le_two_pow_clog2 (max c.w c.p + 1)

namespace Machine

variable {c : Params}

/-- Below its bound a counter's increment does not wrap. -/
theorem succ_toNat {n bound : Nat} (v : BitVec n) (h : v.toNat < bound) (hb : bound < 2 ^ n) :
    (v + 1).toNat = v.toNat + 1 := by
  have h1 : 1 < 2 ^ n := by omega
  have : (1 : BitVec n).toNat = 1 := by
    simp [BitVec.toNat_ofNat, Nat.mod_eq_of_lt h1]
  rw [BitVec.toNat_add, this, Nat.mod_eq_of_lt (by omega)]

/-- The zero-run counter never wraps (41_frame_synchronizer R124). -/
theorem zrun_succ (m : Framer c) (h : m.zrun.toNat < c.k) : (m.zrun + 1).toNat = m.zrun.toNat + 1 :=
  succ_toNat m.zrun h (k_lt_two_pow_zw c)

/-- The pulse counter never wraps (10_state R33). -/
theorem cnt_succ (m : Framer c) (h : m.cnt.toNat < max c.w c.p) : (m.cnt + 1).toNat = m.cnt.toNat + 1 :=
  succ_toNat m.cnt h (max_lt_two_pow_cw c)

@[simp] theorem nextRun_one {n : Nat} (z : BitVec n) : nextRun true z = 0 := rfl
@[simp] theorem nextRun_zero {n : Nat} (z : BitVec n) : nextRun false z = z + 1 := rfl

/-- The value after a shift: twice the old value plus the new bit, in W bits (42_adc_bit_collector R141, R142). -/
theorem shiftIn_toNat {w : Nat} (s : BitVec w) (b : Bit) :
    (shiftIn s b).toNat = (2 * s.toNat + b.toNat) % 2 ^ w := by
  simp [shiftIn, BitVec.toNat_shiftConcat, Nat.shiftLeft_eq, Nat.mul_comm]

/-- No bit is lost before the W-th pulse (42_adc_bit_collector R142). -/
theorem shiftIn_toNat_of_lt {w j : Nat} (s : BitVec w) (b : Bit) (hs : s.toNat < 2 ^ j) (hj : j < w) :
    (shiftIn s b).toNat = 2 * s.toNat + b.toNat := by
  have h1 : 2 ^ (j + 1) ≤ 2 ^ w := Nat.pow_le_pow_right (by omega) hj
  have hb : b.toNat ≤ 1 := b.toNat_le
  rw [Nat.pow_succ] at h1
  rw [shiftIn_toNat, Nat.mod_eq_of_lt (by omega)]

/-- Bit 0 of the shifted value is the new bit, and bit i + 1 is the old bit i. -/
theorem shiftIn_getLsbD {w : Nat} (s : BitVec w) (b : Bit) (i : Nat) :
    (shiftIn s b).getLsbD i = (decide (i < w) && if i = 0 then b else s.getLsbD (i - 1)) := by
  simp [shiftIn, BitVec.getLsbD_shiftConcat]

/-! ### The converter -/

theorem Converter_draw_named (v : Converter) (b : Bit) (bs : List Bit) (h : v.named = b :: bs) : v.draw = b := by
  simp [Converter.draw, h]

theorem Converter_level_driven (v : Converter) (h : v.driven = true) : v.level = v.out := by
  simp [Converter.level, h]

theorem Converter_level_undriven (v : Converter) (h : v.driven = false) : v.level = true := by
  simp [Converter.level, h]

@[simp] theorem Converter_shifts_succ (n : Nat) (v : Converter) :
    Converter.shifts (n + 1) v = Converter.shifts n v.shift := rfl

@[simp] theorem Converter_upcoming_succ (n : Nat) (v : Converter) :
    Converter.upcoming (n + 1) v = v.shift.level :: Converter.upcoming n v.shift := rfl

@[simp] theorem Converter_upcoming_length : ∀ (n : Nat) (v : Converter), (Converter.upcoming n v).length = n
  | 0, _ => rfl
  | n + 1, v => by simp [Converter_upcoming_length n v.shift]

theorem Converter_shifts_pos : ∀ (n : Nat) (v : Converter), (Converter.shifts n v).pos = v.pos + n
  | 0, _ => rfl
  | n + 1, v => by simp only [Converter_shifts_succ, Converter_shifts_pos n, Converter_shift_pos]; omega

/-- A converter that drives the line shows the named draws in order (30_encoding R84, `stream`). -/
theorem Converter_upcoming_named : ∀ (bits rest : List Bit) (v : Converter), v.driven = true →
    v.named = bits ++ rest → Converter.upcoming bits.length v = bits
  | [], _, _, _, _ => rfl
  | b :: bs, rest, v, hd, hn => by
    have hs : v.shift.level = b := by
      rw [Converter_level_driven _ (by simpa using hd)]
      exact Converter_draw_named v b (bs ++ rest) hn
    simp [hs, Converter_upcoming_named bs rest v.shift (by simpa using hd) (by simp [hn])]

/-! ### Register updates of a pulse -/

theorem flushUpdate_more (m : Framer c) (h : (m.cnt + 1).toNat ≠ c.p) :
    flushUpdate m = { m with synced := false, cnt := m.cnt + 1 } := by
  simp only [flushUpdate, if_neg h, clearSynced]

theorem flushUpdate_last (m : Framer c) (h : (m.cnt + 1).toNat = c.p) :
    flushUpdate m =
      { m with synced := false, cnt := m.cnt + 1, respStatus := .ok, respValid := true, fsm := .idle } := by
  simp only [flushUpdate, if_pos h, clearSynced, respond]

theorem readUpdate_more (m : Framer c) (b : Bit) (h : (m.cnt + 1).toNat ≠ c.w) :
    readUpdate b m = { m with lastBit := b, synced := false, shreg := shiftIn m.shreg b, cnt := m.cnt + 1 } := by
  simp only [readUpdate, if_neg h, latchBit]

theorem readUpdate_last (m : Framer c) (b : Bit) (h : (m.cnt + 1).toNat = c.w) :
    readUpdate b m =
      { m with lastBit := b, synced := false, shreg := shiftIn m.shreg b, cnt := m.cnt + 1,
               sample := shiftIn m.shreg b, sampleValid := true,
               respStatus := .ok, respValid := true, fsm := .idle } := by
  simp only [readUpdate, if_pos h, latchBit, respond]

theorem syncUpdate_more (row : Row c) (m : Framer c) (b : Bit) (h : (nextRun b m.zrun).toNat ≠ c.k) :
    syncUpdate row b m = some { m with lastBit := b, synced := false, zrun := nextRun b m.zrun } := by
  simp only [syncUpdate, if_neg h, latchBit]

theorem syncUpdate_last (row : Row c) (m : Framer c) (b : Bit) (h : (nextRun b m.zrun).toNat = c.k) :
    syncUpdate row b m =
      row.syncEnd.map (fun finish => finish { m with lastBit := b, synced := true, zrun := nextRun b m.zrun }) := by
  simp only [syncUpdate, if_pos h, latchBit]

/-! ### One step of a command -/

theorem commandStep_idle (row : Row c) (m : Framer c) (h : m.fsm = .idle) :
    commandStep row m = .next ⟨c, accept row m⟩ := by
  simp [commandStep, h]

theorem commandStep_cancel (row : Row c) (m : Framer c) (h : m.fsm = .sync) (hc : m.port.cancel = true) :
    commandStep row m = .next ⟨c, respond .cancelled (clearResp m)⟩ := by
  simp [commandStep, h, hc]

theorem commandStep_pulse (row : Row c) (m : Framer c) (h : m.fsm ≠ .idle)
    (hc : m.fsm = .sync → m.port.cancel = false) :
    commandStep row m = pulseOutcome (pulseOfPhase row m) := by
  unfold commandStep
  cases hf : m.fsm <;> simp_all

/-- The level a pulse of the phase reads: the line after the pulse's one falling edge. -/
theorem readData_pulseEdges (m : Framer c) (h : m.sclk = true) : readData (pulseEdges m) = m.line.shift.level := by
  simp [readData, h]

/-- Everything one step of a command can do: it accepts, it is cancelled, or it makes one pulse of its phase. -/
theorem commandStep_cases {row : Row c} {m : Framer c} {t : State} (h : commandStep row m = .next t) :
    (m.fsm = .idle ∧ t = ⟨c, accept row m⟩) ∨
    (m.fsm = .sync ∧ m.port.cancel = true ∧ t = ⟨c, respond .cancelled (clearResp m)⟩) ∨
    (m.fsm ≠ .idle ∧ ∃ u, pulseOfPhase row m = some u ∧ t = ⟨c, u⟩) := by
  by_cases hi : m.fsm = .idle
  · rw [commandStep_idle row m hi] at h
    exact .inl ⟨hi, (Host.Outcome.next.inj h).symm⟩
  · by_cases hc : m.fsm = .sync ∧ m.port.cancel = true
    · rw [commandStep_cancel row m hc.1 hc.2] at h
      exact .inr (.inl ⟨hc.1, hc.2, (Host.Outcome.next.inj h).symm⟩)
    · rw [commandStep_pulse row m hi (fun hs => by simpa [hs] using hc)] at h
      refine .inr (.inr ⟨hi, ?_⟩)
      cases hu : pulseOfPhase row m with
      | none => simp [hu, pulseOutcome] at h
      | some u => exact ⟨u, rfl, by simpa [hu, pulseOutcome] using h.symm⟩

/-- `exec` is one step of the command's row. -/
theorem exec_eq (i : Instr) (m : Framer c) : exec i ⟨c, m⟩ = commandStep (rowOf c i) m := by
  cases i <;> rfl

/-! ### A step boundary -/

theorem step_illegal (s : State) (h : ¬ s.cfg.Legal) : step s = .refused .illegalConfig := by
  simp only [step, boundary, if_pos h]

theorem step_badRead (s : State) (hl : s.cfg.Legal) (h : badRead s.fr = true) : step s = .fault .sampleNotValid := by
  simp only [step, boundary, if_neg (not_not.mpr hl), if_pos h]

theorem step_reset (m : Framer c) (hl : c.Legal) (hb : badRead m = false) (h : m.port.rst = true) :
    step ⟨c, m⟩ = .next (hostTurn false m.sample.toNat ⟨c, resetStep m⟩) := by
  simp [step, boundary, hl, hb, h]

theorem step_run (m : Framer c) (i : Instr) (hl : c.Legal) (hb : badRead m = false) (hr : m.port.rst = false)
    (hs : m.started = true) (hi : currentCommand m = some i) :
    step ⟨c, m⟩ = Outcome.thenHost (accepts m) m.sample.toNat (exec i ⟨c, m⟩) := by
  simp [step, boundary, hl, hb, hr, hs, hi]

theorem step_idle (m : Framer c) (hl : c.Legal) (hb : badRead m = false) (hr : m.port.rst = false)
    (hs : m.started = true) (hi : currentCommand m = none) :
    step ⟨c, m⟩ = .next (hostTurn false m.sample.toNat ⟨c, idleStep m⟩) := by
  simp [step, boundary, hl, hb, hr, hs, hi]

/-- Everything a step that answers a next state can do: a reset, one step of a command, or an idle boundary. -/
theorem step_cases {m : Framer c} {t : State} (h : step ⟨c, m⟩ = .next t) :
    c.Legal ∧ badRead m = false ∧
    ((m.port.rst = true ∧ t = hostTurn false m.sample.toNat ⟨c, resetStep m⟩) ∨
     (m.port.rst = false ∧ m.started = true ∧ ∃ i u, currentCommand m = some i ∧
        commandStep (rowOf c i) m = .next u ∧ t = hostTurn (accepts m) m.sample.toNat u) ∨
     (m.port.rst = false ∧ m.started = true ∧ currentCommand m = none ∧
        t = hostTurn false m.sample.toNat ⟨c, idleStep m⟩)) := by
  have hl : c.Legal := by
    by_contra hl
    rw [step_illegal ⟨c, m⟩ hl] at h
    cases h
  have hb : badRead m = false := by
    by_contra hb
    rw [step_badRead ⟨c, m⟩ hl (by simpa using hb)] at h
    cases h
  refine ⟨hl, hb, ?_⟩
  by_cases hr : m.port.rst = true
  · rw [step_reset m hl hb hr] at h
    exact .inl ⟨hr, (Host.Outcome.next.inj h).symm⟩
  · have hr' : m.port.rst = false := by simpa using hr
    by_cases hs : m.started = true
    · cases hi : currentCommand m with
      | none =>
        rw [step_idle m hl hb hr' hs hi] at h
        exact .inr (.inr ⟨hr', hs, rfl, (Host.Outcome.next.inj h).symm⟩)
      | some i =>
        rw [step_run m i hl hb hr' hs hi, exec_eq] at h
        refine .inr (.inl ⟨hr', hs, i, ?_⟩)
        cases hu : commandStep (rowOf c i) m with
        | next u => exact ⟨u, rfl, rfl, by rw [hu] at h; exact (Host.Outcome.next.inj h).symm⟩
        | fault f => rw [hu] at h; cases h
        | refused r => rw [hu] at h; cases h
    · have : step ⟨c, m⟩ = .fault .noResetYet := by
        simp [step, boundary, hl, hb, hr', hs]
      rw [this] at h
      cases h

theorem currentCommand_busy (m : Framer c) (h : m.fsm ≠ .idle) : currentCommand m = some (decode m.op) := by
  unfold currentCommand
  split
  · contradiction
  · rfl

theorem currentCommand_idle (m : Framer c) (h : m.fsm = .idle) :
    currentCommand m = if accepts m then some (decode m.port.cmdOp) else none := by
  simp [currentCommand, h]

/-- A busy block accepts nothing (10_state R42). -/
theorem accepts_busy (m : Framer c) (h : m.fsm ≠ .idle) : accepts m = false := by
  simp [accepts, cmdReady, h]

/-! ### The host's turn keeps its premises -/

theorem HostPort_turn_noReset (a : Bool) (n : Nat) (h : HostPort) (hr : NoReset h) : NoReset (h.turn a n) := by
  obtain ⟨-, h2⟩ := hr
  cases hp : h.plan with
  | nil => simp [NoReset, HostPort.turn, HostPort.nextMove, HostPort.quietMove, hp]
  | cons mv ms =>
    rw [hp] at h2
    simpa [NoReset, HostPort.turn, HostPort.nextMove, hp] using h2

theorem HostPort_turn_noRead (a : Bool) (n : Nat) (h : HostPort) (hr : NoRead h) : NoRead (h.turn a n) := by
  obtain ⟨-, h2⟩ := hr
  cases hp : h.plan with
  | nil => simp [NoRead, HostPort.turn, HostPort.nextMove, HostPort.quietMove, hp]
  | cons mv ms =>
    rw [hp] at h2
    simpa [NoRead, HostPort.turn, HostPort.nextMove, hp] using h2

theorem HostPort_turn_noCancel (a : Bool) (n : Nat) (h : HostPort) (hr : NoCancel h) : NoCancel (h.turn a n) := by
  obtain ⟨h1, h2⟩ := hr
  cases hp : h.plan with
  | nil => simp [NoCancel, HostPort.turn, HostPort.nextMove, HostPort.quietMove, hp, h1]
  | cons mv ms =>
    rw [hp] at h2
    simpa [NoCancel, HostPort.turn, HostPort.nextMove, hp] using h2

/-- A presented command that was not accepted stays presented, unchanged (30_encoding R75). -/
theorem HostPort_turn_holds (n : Nat) (h : HostPort) (hv : h.cmdValid = true) :
    (h.turn false n).cmdValid = true ∧ (h.turn false n).cmdOp = h.cmdOp := by
  simp [HostPort.turn, hv]

end Machine

end Sys2Proof
end

