-- ==== Sys2Proof/Laws/Steps.lean ====
section
/-! SUPPORT. One step of a command in full: every case of a phase's register updates and of `exec`, written out, for
proofs that go through all of them. -/

namespace Sys2Proof.Machine

variable {c : Params}

/-- The rows that have a `SyncEnd()` (43_serial_framer R164). -/
theorem syncEnd_cases {i : Instr} {f : Framer c → Framer c} (h : (rowOf c i).syncEnd = some f) :
    (i = .sync ∧ f = respond .ok) ∨ (i = .acquire ∧ f = enterRead) ∨ (i = .startup ∧ f = enterFlush) := by
  cases i <;>
    simp_all [rowOf, rowRsvd0, rowRsvd7, rowPulse, rowFlush, rowSync, rowRead, rowAcquire, rowStartup]

/-- Exactly the commands with a SYNC phase have a `SyncEnd()` (43_serial_framer R164). -/
theorem syncEnd_isSome (i : Instr) : (rowOf c i).syncEnd.isSome = i.startsWithSync := by
  cases i <;> rfl

/-- The code of a command's row is its encoding (30_encoding R71). -/
theorem rowOf_code (i : Instr) : (rowOf c i).code = encode i := by
  cases i <;> rfl

/-- Everything the register updates at the end of a pulse can do, phase by phase. -/
theorem phaseUpdate_cases {row : Row c} {b : Bit} {m u : Framer c} (h : phaseUpdate row b m = some u)
    (hi : m.fsm ≠ .idle) :
    (m.fsm = .pulse ∧
      u = { m with lastBit := b, synced := false, respStatus := .ok, respValid := true, fsm := .idle }) ∨
    (m.fsm = .flush ∧ (m.cnt + 1).toNat ≠ c.p ∧ u = { m with synced := false, cnt := m.cnt + 1 }) ∨
    (m.fsm = .flush ∧ (m.cnt + 1).toNat = c.p ∧
      u = { m with synced := false, cnt := m.cnt + 1, respStatus := .ok, respValid := true, fsm := .idle }) ∨
    (m.fsm = .sync ∧ (nextRun b m.zrun).toNat ≠ c.k ∧
      u = { m with lastBit := b, synced := false, zrun := nextRun b m.zrun }) ∨
    (m.fsm = .sync ∧ (nextRun b m.zrun).toNat = c.k ∧ ∃ f, row.syncEnd = some f ∧
      u = f { m with lastBit := b, synced := true, zrun := nextRun b m.zrun }) ∨
    (m.fsm = .read ∧ (m.cnt + 1).toNat ≠ c.w ∧
      u = { m with lastBit := b, synced := false, shreg := shiftIn m.shreg b, cnt := m.cnt + 1 }) ∨
    (m.fsm = .read ∧ (m.cnt + 1).toNat = c.w ∧
      u = { m with lastBit := b, synced := false, shreg := shiftIn m.shreg b, cnt := m.cnt + 1,
                   sample := shiftIn m.shreg b, sampleValid := true,
                   respStatus := .ok, respValid := true, fsm := .idle }) := by
  unfold phaseUpdate at h
  split at h
  · contradiction
  · next hf => cases h; exact .inl ⟨hf, rfl⟩
  · next hf =>
    cases h
    by_cases hk : (m.cnt + 1).toNat = c.p
    · exact .inr (.inr (.inl ⟨hf, hk, flushUpdate_last m hk⟩))
    · exact .inr (.inl ⟨hf, hk, flushUpdate_more m hk⟩)
  · next hf =>
    by_cases hk : (nextRun b m.zrun).toNat = c.k
    · rw [syncUpdate_last row m b hk] at h
      obtain ⟨f, hr, hu⟩ := Option.map_eq_some_iff.mp h
      exact .inr (.inr (.inr (.inr (.inl ⟨hf, hk, f, hr, hu.symm⟩))))
    · rw [syncUpdate_more row m b hk] at h
      exact .inr (.inr (.inr (.inl ⟨hf, hk, (Option.some.inj h).symm⟩)))
  · next hf =>
    cases h
    by_cases hk : (m.cnt + 1).toNat = c.w
    · exact .inr (.inr (.inr (.inr (.inr (.inr ⟨hf, hk, readUpdate_last m b hk⟩)))))
    · exact .inr (.inr (.inr (.inr (.inr (.inl ⟨hf, hk, readUpdate_more m b hk⟩)))))

/-- A busy block that is not cancelled makes one pulse: the converter shifts once, the level read is the line's after
that, and the phase's updates follow (43_serial_framer R160). -/
theorem exec_busy (i : Instr) (m : Framer c) (h : m.fsm ≠ .idle) (hc : m.fsm = .sync → m.port.cancel = false)
    (hs : m.sclk = true) :
    exec i ⟨c, m⟩ = pulseOutcome (phaseUpdate (rowOf c i) m.line.shift.level
      { m with respValid := false, line := m.line.shift, pulses := m.pulses + 1 }) := by
  rw [exec_eq, commandStep_pulse _ m h hc]
  unfold pulseOfPhase
  simp only [pulseEdges_of_high (clearResp m) hs]
  rfl

/-- Everything one step of a command can do from the idle clock level, written out. -/
theorem exec_cases {i : Instr} {m : Framer c} {t : State} (hs : m.sclk = true) (h : exec i ⟨c, m⟩ = .next t) :
    (m.fsm = .idle ∧ t = ⟨c, accept (rowOf c i) m⟩) ∨
    (m.fsm = .sync ∧ m.port.cancel = true ∧
      t = ⟨c, { m with respStatus := .cancelled, respValid := true, fsm := .idle }⟩) ∨
    (m.fsm ≠ .idle ∧ ∃ u, t = ⟨c, u⟩ ∧ phaseUpdate (rowOf c i) m.line.shift.level
      { m with respValid := false, line := m.line.shift, pulses := m.pulses + 1 } = some u) := by
  rw [exec_eq] at h
  rcases commandStep_cases h with ⟨hi, ht⟩ | ⟨hf, hc, ht⟩ | ⟨hi, u, hu, ht⟩
  · exact .inl ⟨hi, ht⟩
  · exact .inr (.inl ⟨hf, hc, ht⟩)
  · refine .inr (.inr ⟨hi, u, ht, ?_⟩)
    unfold pulseOfPhase at hu
    simp only [pulseEdges_of_high (clearResp m) hs] at hu
    exact hu

/-! ### The ports across a step -/

@[simp] theorem accept_rowOf_port (i : Instr) (m : Framer c) : (accept (rowOf c i) m).port = m.port := by
  cases i <;> rfl

/-- The register updates of a phase leave the input ports to the host. -/
theorem phaseUpdate_keeps_port {i : Instr} {b : Bit} {m u : Framer c} (h : phaseUpdate (rowOf c i) b m = some u) :
    u.port = m.port := by
  by_cases hi : m.fsm = .idle
  · simp only [phaseUpdate, hi] at h
    cases h
    rfl
  · rcases phaseUpdate_cases h hi with ⟨-, rfl⟩ | ⟨-, -, rfl⟩ | ⟨-, -, rfl⟩ | ⟨-, -, rfl⟩ | ⟨-, -, f, hf, rfl⟩ |
      ⟨-, -, rfl⟩ | ⟨-, -, rfl⟩
    any_goals rfl
    obtain ⟨-, rfl⟩ | ⟨-, rfl⟩ | ⟨-, rfl⟩ := syncEnd_cases hf <;> rfl

theorem commandStep_keeps_port {i : Instr} {m : Framer c} {t : State}
    (h : commandStep (rowOf c i) m = .next t) : t.fr.port = m.port := by
  obtain ⟨-, rfl⟩ | ⟨-, -, rfl⟩ | ⟨-, u, hu, rfl⟩ := commandStep_cases h
  · simp
  · rfl
  · exact (phaseUpdate_keeps_port hu).trans (by simp)

/-- After every step the input ports are what the host's turn made of them (44_host_operations R194), and the turn is
told of an acceptance only where there was one. -/
theorem step_port {m : Framer c} {t : State} (h : step ⟨c, m⟩ = .next t) :
    ∃ accepted, (accepted = true → accepts m = true) ∧ t.fr.port = m.port.turn accepted m.sample.toNat := by
  obtain ⟨-, -, ⟨-, rfl⟩ | ⟨-, -, i, u, -, hu, rfl⟩ | ⟨-, -, -, rfl⟩⟩ := step_cases h
  · exact ⟨false, by simp, rfl⟩
  · exact ⟨accepts m, id, by rw [← commandStep_keeps_port hu]; rfl⟩
  · exact ⟨false, by simp, rfl⟩

/-! ### Runs -/

@[simp] theorem core_run_zero (s : State) : Sys2Proof.core.run 0 s = .next s := rfl

/-- A run of one step more takes that step first. -/
theorem core_run_succ {s t : State} (n : Nat) (h : step s = .next t) :
    Sys2Proof.core.run (n + 1) s = Sys2Proof.core.run n t := by
  have h' : Sys2Proof.core.step s = .next t := h
  simp only [Host.Core.run, h']

/-- A run in two parts. -/
theorem core_run_add {s t : State} (a b : Nat) (h : Sys2Proof.core.run a s = .next t) :
    Sys2Proof.core.run (a + b) s = Sys2Proof.core.run b t := by
  induction a generalizing s with
  | zero => cases h; rw [Nat.zero_add]
  | succ a ih =>
    rw [Nat.add_right_comm]
    cases hs : step s with
    | next u => rw [core_run_succ _ hs] at h ⊢; exact ih h
    | fault f =>
      have h' : Sys2Proof.core.step s = .fault f := hs
      simp only [Host.Core.run, h'] at h
      cases h
    | refused r =>
      have h' : Sys2Proof.core.step s = .refused r := hs
      simp only [Host.Core.run, h'] at h
      cases h

end Sys2Proof.Machine
end

