-- ==== Sys2Proof/Machine/HostIssue.lean ====
section
/-! DEFINITION. How a host issues a command and consumes its response (00_scope R3 (c), 44_host_operations R194): shared
by the acquisition loop and by command programs. -/

namespace Sys2Proof.Machine

/-- What the host takes as the result of a command, in the cycle `resp_valid_o` = 1 (30_encoding R79). -/
structure Response where
  /-- The command answered. -/
  command : Instr
  /-- `resp_status_o`. -/
  status : Status
  /-- `resp_bit_o`. -/
  bit : Bit
  /-- `sample_o`, taken only for READ and ACQUIRE answered OK. -/
  sample : Option Nat
  deriving DecidableEq, Repr

/-- The commands whose OK response brings a new sample (30_encoding R79; 44_host_operations R180). -/
def Instr.samples : Instr → Bool
  | .rsvd0 => false
  | .pulse => false
  | .flush => false
  | .sync => false
  | .read => true
  | .acquire => true
  | .startup => false
  | .rsvd7 => false

/-- Whether this boundary shows the host a new sample as the result of `i`. -/
def bringsSample {c : Params} (m : Framer c) (i : Instr) : Bool :=
  Instr.samples i && decide (m.respStatus = .ok)

/-- The sample the host takes as the result of `i`: the committed `sample_o` (44_host_operations R180), read while
`sample_valid_o` = 1 (10_state R47). -/
def takeSample {c : Params} (m : Framer c) (i : Instr) : Option Nat :=
  if bringsSample m i then
    match hostReadSample m with
    | .ok v => some v.toNat
    | .error _ => none
  else none

/-- The response to `i` that this boundary's outputs show (30_encoding R79). -/
def responseTo {c : Params} (m : Framer c) (i : Instr) : Response :=
  { command := i, status := m.respStatus, bit := m.lastBit, sample := takeSample m i }

/-- Where the host stands with the one command it issues at a time (30_encoding R76). -/
inductive Issue where
  /-- It issues none. -/
  | free
  /-- It presents `i`, which is not accepted yet; it keeps presenting it (30_encoding R75). -/
  | presented (i : Instr)
  /-- `i` was accepted when `base` pulses had been issued, and its response is awaited. -/
  | running (i : Instr) (base : Nat)
  deriving DecidableEq, Repr

/-- The response the host hears at this boundary, if the command it awaits is answered now. -/
def Issue.hears {c : Params} (m : Framer c) : Issue → Option Response
  | .free => none
  | .presented _ => none
  | .running i _ => if m.respValid then some (responseTo m i) else none

/-- Hearing the response ends the command (30_encoding R78). -/
def Issue.afterHearing {c : Params} (m : Framer c) : Issue → Issue
  | .free => .free
  | .presented i => .presented i
  | .running i base => if m.respValid then .free else .running i base

/-- A reset in this cycle: the command in progress gets no response (70_reset_and_hazards R231), and one that is only
presented stays so (30_encoding R75). -/
def Issue.afterReset (rst : Bool) : Issue → Issue
  | .free => .free
  | .presented i => .presented i
  | .running i base => if rst then .free else .running i base

/-- Acceptance at this boundary (30_encoding R74). -/
def Issue.afterAcceptance {c : Params} (m : Framer c) : Issue → Issue
  | .free => .free
  | .presented i => if accepts m then .running i m.pulses else .presented i
  | .running i base => .running i base

/-- The command port as the host drives it: `cmd_valid_i` = 1 with the code while a command is presented. -/
def Issue.drive (h : HostPort) : Issue → HostPort
  | .free => { h with cmdValid := false }
  | .presented i => { h with cmdValid := true, cmdOp := encode i }
  | .running _ _ => { h with cmdValid := false }

end Sys2Proof.Machine
end

