-- ==== Sys2Proof/Machine/Program.lean ====
section
/-! DEFINITION. Command programs (30_encoding R84): their lines, and the host that runs them on the machine. -/

namespace Sys2Proof.Machine

/-- A host directive (30_encoding R84). -/
inductive Directive where
  /-- `reset`: hold `rst_i` = 1 for a cycle; `midPulse` is the environment's choice of 70_reset_and_hazards R233. -/
  | reset (midPulse : Bool)
  /-- `cancel 1` and `cancel 0`: set the level of `cancel_i`. -/
  | cancel (level : Bool)
  /-- `stream b1,b2,...`: name the converter's next draws. -/
  | stream (bits : List Bit)
  deriving DecidableEq, Repr

/-- What a directive does at the step boundary it takes effect at. -/
def Directive.apply {c : Params} (d : Directive) (m : Framer c) : Framer c :=
  match d with
  | .reset midPulse => { m with port := { m.port with rst := true, midPulse := midPulse } }
  | .cancel level => { m with port := { m.port with cancel := level } }
  | .stream bits => { m with line := { m.line with named := m.line.named ++ bits } }

/-- A line of a command program (30_encoding R84). -/
inductive ProgramLine where
  /-- A mnemonic, "present the code, wait for acceptance, wait for the response", with the directives indented under
  it: `(n, d)` takes effect at the step boundary after the n-th pulse of the command. A line with no `@pulse` is
  written with n = 0. -/
  | command (i : Instr) (indented : List (Nat × Directive))
  /-- A directive on a line of its own. -/
  | directive (d : Directive)
  deriving DecidableEq, Repr

/-- The encoding of a line: a command line's is its code (30_encoding R84). -/
def ProgramLine.code : ProgramLine → Option Code
  | .command i _ => some (encode i)
  | .directive _ => none

/-- The host that runs a program. -/
structure Runner where
  /-- The lines not begun yet. -/
  todo : List ProgramLine
  /-- The directives under the command line in progress that have not taken effect yet. -/
  indented : List (Nat × Directive)
  /-- The command line in progress. -/
  issue : Issue
  /-- The responses heard, oldest first. -/
  heard : List Response
  deriving DecidableEq, Repr

/-- A program about to begin. -/
def Runner.load (lines : List ProgramLine) : Runner :=
  { todo := lines, indented := [], issue := .free, heard := [] }

/-- Whether every line has begun and none is in progress. -/
def Runner.done (r : Runner) : Bool := r.todo.isEmpty && decide (r.issue = .free)

/-- How many pulses the command in progress has issued: the boundary that `@pulse n` names is the one where it is n. -/
def Issue.pulsesSince {c : Params} (m : Framer c) : Issue → Option Nat
  | .free => none
  | .presented _ => none
  | .running _ base => some (m.pulses - base)

/-- Every directive due at this boundary takes effect, once, in order. -/
def Runner.due {c : Params} (r : Runner) (m : Framer c) : Runner × Framer c :=
  match r.issue.pulsesSince m with
  | some n =>
    ({ r with indented := r.indented.filter (fun d => decide (d.1 ≠ n)) },
      (r.indented.filter (fun d => decide (d.1 = n))).foldl (fun acc d => d.2.apply acc) m)
  | none => (r, m)

/-- The host hears the response of the line in progress, which ends that line. -/
def Runner.hear {c : Params} (m : Framer c) (r : Runner) : Runner :=
  match r.issue.hears m with
  | some a => { r with issue := r.issue.afterHearing m, indented := [], heard := r.heard ++ [a] }
  | none => r

/-- Begin the next lines, up to a command, which is presented, or a `reset`, which takes the cycle. -/
def beginLines {c : Params} (heard : List Response) : List ProgramLine → Framer c → Runner × Framer c
  | [], m => ({ todo := [], indented := [], issue := .free, heard := heard }, m)
  | .command i ds :: rest, m => ({ todo := rest, indented := ds, issue := .presented i, heard := heard }, m)
  | .directive (.reset mid) :: rest, m =>
    ({ todo := rest, indented := [], issue := .free, heard := heard }, (Directive.reset mid).apply m)
  | .directive (.cancel level) :: rest, m => beginLines heard rest ((Directive.cancel level).apply m)
  | .directive (.stream bits) :: rest, m => beginLines heard rest ((Directive.stream bits).apply m)

/-- What beginning the lines `ls` leaves: directives are passed in order up to a command, which is presented, or up to a
`reset` or the program's end, with nothing presented. -/
def Runner.Began (ls : List ProgramLine) (r : Runner) : Prop :=
  ∃ ds : List Directive,
    (r.issue = .free ∧ ls = ds.map .directive ++ r.todo ∧ (r.todo = [] ∨ ∃ mid, ds.getLast? = some (.reset mid))) ∨
    (∃ i, r.issue = .presented i ∧ ls = ds.map .directive ++ .command i r.indented :: r.todo ∧
      ∀ mid, Directive.reset mid ∉ ds)

/-- Begin the next line, if none is in progress. -/
def Runner.begins {c : Params} (r : Runner) (m : Framer c) : Runner × Framer c :=
  match r.issue with
  | .free => beginLines r.heard r.todo m
  | .presented _ => (r, m)
  | .running _ _ => (r, m)

/-- The host's part of a boundary: what is due takes effect, the response is heard, the next line begins, and the
command port is driven. A reset in this cycle ends the line in progress with no response (70_reset_and_hazards R231). -/
def Runner.boundary {c : Params} (r : Runner) (m : Framer c) : Runner × Framer c :=
  let d := r.due m
  let b := (d.1.hear m).begins d.2
  let issue := b.1.issue.afterReset b.2.port.rst
  ({ b.1 with issue := issue }, { b.2 with port := { issue.drive b.2.port with readSample := false, plan := [] } })

/-- One step boundary of the machine under the program. -/
def Runner.step (r : Runner) (s : State) : Host.Outcome (Runner × State) Fault Refusal :=
  let b := r.boundary s.fr
  match Sys2Proof.Machine.step ⟨s.cfg, b.2⟩ with
  | .next t => .next ({ b.1 with issue := b.1.issue.afterAcceptance b.2 }, t)
  | .fault f => .fault f
  | .refused q => .refused q

/-- `n` boundaries, stopping at the first fault or refusal. -/
def Runner.run : Nat → Runner → State → Host.Outcome (Runner × State) Fault Refusal
  | 0, r, s => .next (r, s)
  | n + 1, r, s =>
    match r.step s with
    | .next (r', s') => Runner.run n r' s'
    | .fault f => .fault f
    | .refused q => .refused q

end Sys2Proof.Machine
end

