-- ==== Sys2Proof/Machine/HostLoop.lean ====
section
/-! DEFINITION. The host's software (44_host_operations): unit conversion, threshold filter, acquisition loop and sink.
It is outside the block (00_scope R5 (a), R180); nothing in the block depends on it. -/

namespace Sys2Proof.Machine

/-- The host's configuration (44_host_operations R185) and its OPEN formats (R182, R188, R189). -/
structure LoopConfig where
  /-- `referenceVoltageMillivolts`. -/
  vref : Rat
  /-- `offsetMillivolts`. -/
  offset : Rat
  /-- `thresholdMillivolts`. -/
  threshold : Rat
  /-- `interSampleDelaySeconds`: a sleep of any length, with no effect on the block (R195). -/
  delay : Rat
  /-- The host's copy of K, W and P. -/
  params : Params
  /-- `HOST_FLOAT`: the rounding of the host's number format. -/
  float : Rat → Rat
  /-- `TIMESTAMP_FORMAT`. -/
  timestampText : Nat → String
  /-- `VOLTAGE_FORMAT`. -/
  voltageText : Rat → String
  /-- Whether a RUNNING cycle is one ACQUIRE, or SYNC then READ (R187). -/
  oneCommand : Bool
  /-- How many step boundaries the sleep of a given delay lasts, the n-th time: any number (R195). -/
  sleep : Rat → Nat → Nat
  /-- Whether a final record bears its sample's capture time (R188) or the time of its writing (log entry 22). -/
  finalAtCapture : Bool

/-- The document's defaults (R185), with every format free. -/
def LoopConfig.reference : LoopConfig :=
  { vref := 3300, offset := 0, threshold := 200, delay := 3 / 1000, params := Params.reference,
    float := Config.hostFloat, timestampText := Config.timestampText, voltageText := Config.voltageText,
    oneCommand := true, sleep := Config.sleepBoundaries, finalAtCapture := Config.finalAtCapture }

/-- The duty of R185 and R194 "configuration": the host's copy of K, W and P equals the block's. -/
abbrev LoopConfig.Agrees (lc : LoopConfig) (c : Params) : Prop := lc.params = c

/-- The host that keeps this duty to a block with the parameters `c`: every other option is as configured. The system
runs its loop with this configuration and no other (`System.step`; log entry 24). -/
def LoopConfig.forBlock (lc : LoopConfig) (c : Params) : LoopConfig := { lc with params := c }

/-- `toVoltage`, exactly (R181). -/
def toVoltage (raw w : Nat) (vref offset : Rat) : Rat := (raw : Rat) / 2 ^ w * vref + offset

/-- `toVoltage` as a number format with rounding `round` computes it: every operand is promoted to the format before the
division, and every intermediate is rounded to it (R182). -/
def toVoltageIn (round : Rat → Rat) (raw w : Nat) (vref offset : Rat) : Rat :=
  round (round (round (round raw / round (2 ^ w)) * round vref) + round offset)

/-- The voltage the host computes from a raw sample (R181, R182). -/
def LoopConfig.voltage (lc : LoopConfig) (raw : Nat) : Rat :=
  toVoltageIn lc.float raw lc.params.w lc.vref lc.offset

/-- The threshold filter: strictly greater (R184). -/
def LoopConfig.passes (lc : LoopConfig) (v : Rat) : Bool := decide (lc.threshold < v)

/-- One record of the sink: a capture time (R188) and a voltage. -/
structure SinkRecord where
  /-- When assembly completed. -/
  stamp : Nat
  /-- The voltage in millivolts. -/
  voltage : Rat
  deriving DecidableEq, Repr

/-- The record's line, `<timestamp> <voltage>` and a line end (R189). -/
def SinkRecord.text (lc : LoopConfig) (r : SinkRecord) : String :=
  lc.timestampText r.stamp ++ " " ++ lc.voltageText r.voltage ++ "\n"

/-- A computed sample: its capture time, "assigned at the moment assembly completes" (R188), and its voltage. -/
structure Captured where
  /-- The time of the OK response. -/
  stamp : Nat
  /-- The voltage in millivolts. -/
  voltage : Rat
  deriving DecidableEq, Repr

/-- Where the loop stands: STARTING and RUNNING of R186, and the ends of R192 and R193. -/
inductive LoopPhase where
  /-- STARTING: the startup sequence is due or running. -/
  | starting
  /-- RUNNING: one acquisition after another. -/
  | running
  /-- A termination signal came; the command in progress, if any, has still to answer (R192). -/
  | terminating
  /-- The sink is closed. -/
  | closed
  /-- The hardware could not be accessed at process start (R193). -/
  | failed
  deriving DecidableEq, Repr

/-- The loop's own state, as plain data. -/
structure Loop where
  /-- Where the loop stands. -/
  phase : LoopPhase
  /-- The command the host has issued. -/
  issue : Issue
  /-- STARTUP has answered OK since the last reset: only then does the loop trust a sample (R194 "after reset"). -/
  booted : Bool
  /-- This cycle's SYNC has answered OK, so READ is next (R187, R194 "framing"). -/
  framed : Bool
  /-- How many boundaries of the inter-sample delay are left (R195). -/
  asleep : Nat
  /-- How many acquisition cycles are over. -/
  cycles : Nat
  /-- The last successfully computed sample, if there is one (R192). -/
  last : Option Captured
  /-- The records written, oldest first; each is a whole line (R190). -/
  sink : List SinkRecord
  /-- Whether the sink is open (R190). -/
  sinkOpen : Bool
  /-- How many write failures were reported to the loop's caller (R191). -/
  reports : Nat
  deriving DecidableEq, Repr

/-- Process start: the sink is opened once (R190), and a hardware-access failure is fatal (R193). -/
def Loop.start (setupOk : Bool) : Loop :=
  { phase := if setupOk then .starting else .failed, issue := .free, booted := false, framed := false, asleep := 0,
    cycles := 0, last := none, sink := [], sinkOpen := setupOk, reports := 0 }

/-- What the loop's surroundings do at one step boundary. -/
structure LoopInput where
  /-- The current time. -/
  now : Nat
  /-- Whether the cycle's record can be written now. -/
  writeOk : Bool
  /-- Whether the final record can be written now. -/
  finalOk : Bool
  /-- A termination signal (R192). -/
  terminate : Bool
  /-- `rst_i` in this cycle (R194, "assert `rst_i` at any time"). -/
  reset : Bool
  /-- The environment's choice of 70_reset_and_hazards R233, should the reset land inside a pulse. -/
  midPulse : Bool
  deriving DecidableEq, Repr

/-! ### Records -/

/-- One attempt to append a record: a failure is reported and the loop goes on (R191). -/
def Loop.append (writeOk : Bool) (r : SinkRecord) (l : Loop) : Loop :=
  if writeOk then { l with sink := l.sink ++ [r] } else { l with reports := l.reports + 1 }

/-- Emit a record exactly when the voltage passes the filter (R184). -/
def Loop.emit (lc : LoopConfig) (stamp : Nat) (writeOk : Bool) (v : Rat) (l : Loop) : Loop :=
  if lc.passes v then l.append writeOk { stamp := stamp, voltage := v } else l

/-! ### Responses (R186, R187) -/

/-- A sample the loop trusts: its voltage, with the time of this response, becomes the last computed one (R188, R192), a
RUNNING cycle emits its record, and the inter-sample delay begins (R187). A sample that completes while the host
terminates is left to the final record (log entry 17). -/
def Loop.takes (lc : LoopConfig) (e : LoopInput) (raw : Nat) (l : Loop) : Loop :=
  let t := { l with
    last := some { stamp := e.now, voltage := lc.voltage raw }, framed := false,
    asleep := lc.sleep lc.delay l.cycles, cycles := l.cycles + 1 }
  match l.phase with
  | .running => t.emit lc e.now e.writeOk (lc.voltage raw)
  | .terminating => t
  | .starting => l
  | .closed => l
  | .failed => l

/-- STARTUP answered OK: STARTING becomes RUNNING (R186). -/
def Loop.boots (l : Loop) : Loop :=
  match l.phase with
  | .starting => { l with phase := .running, booted := true, framed := false }
  | .running => { l with booted := true, framed := false }
  | .terminating => { l with booted := true, framed := false }
  | .closed => l
  | .failed => l

/-- SYNC answered OK: READ is next, in a RUNNING cycle made of two commands (R187). -/
def Loop.frames (l : Loop) : Loop := { l with framed := l.booted }

/-- The loop consumes a response (R186, R187). A command that did not end OK, or one that brings nothing, leaves the
cycle to begin again; a sample is taken only since a STARTUP (R194 "after reset"). -/
def Loop.answer (lc : LoopConfig) (e : LoopInput) (r : Response) (l : Loop) : Loop :=
  match r.status with
  | .ok =>
    match r.command with
    | .startup => l.boots
    | .sync => l.frames
    | .acquire => if l.booted then (match r.sample with | some raw => l.takes lc e raw | none => l) else l
    | .read => if l.booted then (match r.sample with | some raw => l.takes lc e raw | none => l) else l
    | .pulse => { l with framed := false }
    | .flush => { l with framed := false }
    | .rsvd0 => l
    | .rsvd7 => l
  | .cancelled => { l with framed := false }
  | .illegal => l

/-- Hear the response this boundary shows, if it answers the command in progress. -/
def Loop.hear {c : Params} (lc : LoopConfig) (e : LoopInput) (m : Framer c) (l : Loop) : Loop :=
  match l.issue.hears m with
  | some r => { l with issue := l.issue.afterHearing m }.answer lc e r
  | none => l

/-! ### Termination (R192) and reset (R194) -/

/-- A termination signal, "the sole normal exit path" (R192). -/
def Loop.terminate (signal : Bool) (l : Loop) : Loop :=
  if signal then
    match l.phase with
    | .starting => { l with phase := .terminating }
    | .running => { l with phase := .terminating }
    | .terminating => l
    | .closed => l
    | .failed => l
  else l

/-- A reset in this cycle: the command in progress gets no response, and the startup sequence is due again before any
sample is trusted (R194 "after reset"; 70_reset_and_hazards R235, R236). DESIGN CHOICE (log entry 22): a host that
terminates waits no longer for the response that R231 takes away; `Loop.finish` then closes the sink at this boundary. -/
def Loop.reset (rst : Bool) (l : Loop) : Loop :=
  if rst then
    { l with
      issue := l.issue.afterReset true, booted := false, framed := false, asleep := 0
      phase := match l.phase with
        | .starting => .starting
        | .running => .starting
        | .terminating => .terminating
        | .closed => .closed
        | .failed => .failed }
  else l

/-- The timestamp of the final record of `s`. -/
def LoopConfig.finalStamp (lc : LoopConfig) (now : Nat) (s : Captured) : Nat :=
  if lc.finalAtCapture then s.stamp else now

/-- The end of termination, once no command is in progress: the final record, only if a last sample exists and passes
the filter, then the sink is closed (R192). Before that, and in every other phase, nothing. -/
def Loop.finish (lc : LoopConfig) (e : LoopInput) (l : Loop) : Loop :=
  if l.phase = .terminating ∧ l.issue = .free then
    let w := match l.last with
      | some s => l.emit lc (lc.finalStamp e.now s) e.finalOk s.voltage
      | none => l
    { w with phase := .closed, sinkOpen := false }
  else l

/-! ### Issuing commands (R186, R187) -/

/-- The command the loop issues next, if it is awake and none is in progress: STARTUP, then cycle after cycle ACQUIRE,
or SYNC and then READ. -/
def Loop.command (lc : LoopConfig) (l : Loop) : Option Instr :=
  match l.phase with
  | .starting => some .startup
  | .running => if lc.oneCommand then some .acquire else if l.framed then some .read else some .sync
  | .terminating => none
  | .closed => none
  | .failed => none

/-- One boundary of issuing: present the next command, or sleep on (R195). -/
def Loop.present (lc : LoopConfig) (l : Loop) : Loop :=
  match l.issue with
  | .free =>
    if l.asleep = 0 then
      match l.command lc with
      | some i => { l with issue := .presented i }
      | none => l
    else { l with asleep := l.asleep - 1 }
  | .presented _ => l
  | .running _ _ => l

/-- `cancel_i` as the loop drives it: raised by termination (R192), 0 before it (R194 "clear cancel"). -/
def Loop.cancelLevel (l : Loop) : Bool :=
  match l.phase with
  | .starting => false
  | .running => false
  | .terminating => true
  | .closed => true
  | .failed => false

/-- The loop's part of a boundary: the response shown, a termination signal, a reset, the end of termination, and the
next command (log entry 22: in this order). -/
def Loop.boundary {c : Params} (lc : LoopConfig) (e : LoopInput) (m : Framer c) (l : Loop) : Loop :=
  ((((l.hear lc e m).terminate e.terminate).reset e.reset).finish lc e).present lc

/-- Whether the loop takes `sample_o` at this boundary, through the read that 10_state R47 watches. -/
def Loop.reads {c : Params} (m : Framer c) (l : Loop) : Bool :=
  match l.issue with
  | .free => false
  | .presented _ => false
  | .running i _ => m.respValid && bringsSample m i

/-- The input ports as the loop drives them at this boundary; `reads` says whether it takes `sample_o` there. -/
def Loop.ports {c : Params} (e : LoopInput) (m : Framer c) (reads : Bool) (l : Loop) : HostPort :=
  l.issue.drive { m.port with
    rst := e.reset, midPulse := e.midPulse, cancel := l.cancelLevel, readSample := reads, plan := [] }

end Sys2Proof.Machine
end

