-- ==== Sys2Proof/Machine/System.lean ====
section
/-! DEFINITION. The three agents of 00_scope R3 together: the block and the converter of `State`, driven by the host's
acquisition loop, which issues the commands and consumes the responses. -/

namespace Sys2Proof.Machine

/-- The host's loop and the machine it drives. -/
structure System where
  /-- The loop (44_host_operations R186). -/
  loop : Loop
  /-- The block, the converter and the ports. -/
  st : State
  deriving DecidableEq, Repr

/-- The system right after reset at a successful process start. -/
def System.reset : System := { loop := Loop.start true, st := State.reset }

/-- One step boundary of the three agents: the loop reads the outputs and drives the inputs, the block makes its step,
and the loop sees whether its command was accepted. The loop uses the block's K, W and P (44_host_operations R185, R194
"configuration"; log entry 24), which no step changes (00_scope R10). -/
def System.step (lc : LoopConfig) (e : LoopInput) (x : System) : Host.Outcome System Fault Refusal :=
  let m := x.st.fr
  let l := x.loop.boundary (lc.forBlock x.st.cfg) e m
  let driven : Framer x.st.cfg := { m with port := l.ports e m (x.loop.reads m) }
  match Sys2Proof.Machine.step ⟨x.st.cfg, driven⟩ with
  | .next t => .next { loop := { l with issue := l.issue.afterAcceptance driven }, st := t }
  | .fault f => .fault f
  | .refused r => .refused r

/-- One boundary for each input, stopping at the first fault or refusal. -/
def System.run (lc : LoopConfig) : List LoopInput → System → Host.Outcome System Fault Refusal
  | [], x => .next x
  | e :: es, x =>
    match x.step lc e with
    | .next y => System.run lc es y
    | .fault f => .fault f
    | .refused r => .refused r

end Sys2Proof.Machine
end

