-- ==== Sys2Proof/Certificates/Slice0/Obligations.lean ====
section
/-! DEFINITION. The statements for the provers. `c` are the build parameters, `m` a machine with them, whatever run or
none leads to it. `m.line.shift.level` is the level the data line shows after the next falling edge. -/

open Sys2Proof Sys2Proof.Machine

/-! ### Reset and the model's stops -/

/-- 70_reset_and_hazards R232: the machine right after reset is IDLE with both lines at their idle levels and accepts a
command in the first cycle with `rst_i` = 0. `State.reset` is such a machine, with its own converter and host. -/
def Obligations.FirstCycleAfterResetAccepts : Prop :=
  (∀ (c : Params) (line : Converter) (port : HostPort), port.rst = false →
    (Framer.reset c line port).fsm = .idle ∧ (Framer.reset c line port).respValid = false ∧
    cmdReady (Framer.reset c line port) = true ∧ (Framer.reset c line port).sclk = true ∧
    (Framer.reset c line port).hold = false ∧
    (port.cmdValid = true → accepts (Framer.reset c line port) = true)) ∧
  State.reset.fr = Framer.reset State.reset.cfg State.reset.fr.line State.reset.fr.port

/-- 10_state R46 and 70_reset_and_hazards R230: a cycle with `rst_i` = 1 gives every register its reset value, whatever
the block was doing, and accepts no command: one that is presented is still presented. (A host read that 10_state R47
faults is the one thing that stops such a step: log entry 11.) -/
def Obligations.ResetTakesEveryResetValue : Prop :=
  ∀ (c : Params) (m : Framer c), c.Legal → badRead m = false → m.port.rst = true →
    ∃ t : Framer c, step ⟨c, m⟩ = .next ⟨c, t⟩ ∧
      t.fsm = .idle ∧ t.op = 0b000#3 ∧ t.zrun = 0 ∧ t.cnt = 0 ∧ t.shreg = 0 ∧ t.sample = 0 ∧
      t.sampleValid = false ∧ t.synced = false ∧ t.lastBit = true ∧ t.respStatus = .ok ∧ t.respValid = false ∧
      t.sclk = true ∧ t.hold = false ∧
      (m.port.cmdValid = true → t.port.cmdValid = true ∧ t.port.cmdOp = m.port.cmdOp)

/-- 70_reset_and_hazards R233: a reset of a busy block advances the converter by 0 or 1 positions as the environment
chose. That an IDLE block's reset advances it by none is the model's deduction (log entry 7). -/
def Obligations.ResetShiftsConverterByZeroOrOne : Prop :=
  ∀ (c : Params) (m : Framer c), c.Legal → badRead m = false → m.port.rst = true → m.started = true →
    ∃ t : Framer c, step ⟨c, m⟩ = .next ⟨c, t⟩ ∧ t.pulses = 0 ∧
      (m.fsm ≠ .idle → m.port.midPulse = true → t.line = m.line.shift) ∧
      (m.fsm ≠ .idle → m.port.midPulse = false → t.line = m.line) ∧
      (m.fsm = .idle → t.line = m.line)

/-- 70_reset_and_hazards R234: before its first reset the block has no step, and after every step there has been one. The
fault's name, the flag `started`, and that a forbidden host read faults first, are the model's (log entries 11, 12). -/
def Obligations.NoStepBeforeFirstReset : Prop :=
  (∀ (c : Params) (m : Framer c), c.Legal → m.started = false → m.port.rst = false →
    step ⟨c, m⟩ = if m.port.readSample then .fault .sampleNotValid else .fault .noResetYet) ∧
  (∀ s t : State, step s = .next t → t.fr.started = true)

/-- 00_scope R8: a configuration outside the legal range is refused, for every state, and P is 20 in the reference. -/
def Obligations.IllegalConfigurationIsRefused : Prop :=
  (∀ s : State, s.cfg.k < 1 ∨ s.cfg.w < 1 ∨ s.cfg.p < 16 ∨ s.cfg.p < 2 * s.cfg.k →
    step s = .refused .illegalConfig) ∧
  (∀ s : State, step s = .refused .illegalConfig →
    s.cfg.k < 1 ∨ s.cfg.w < 1 ∨ s.cfg.p < 16 ∨ s.cfg.p < 2 * s.cfg.k) ∧
  Params.reference.p = 20

/-- 10_state R47: a host read of `sample_o` while `sample_valid_o` = 0 is a fault, not the value 0. That a step faults so in
a cycle with `rst_i` = 1 and before the first reset too is the model's deduction (log entries 11, 12). -/
def Obligations.InvalidSampleReadFaults : Prop :=
  ∀ (c : Params) (m : Framer c), c.Legal → m.sampleValid = false →
    hostReadSample m = .error .sampleNotValid ∧
    (m.port.readSample = true → step ⟨c, m⟩ = .fault .sampleNotValid)

/-- 44_host_operations R194 (read `sample_o` while `sample_valid_o` = 1): the host takes the value the register held at
the boundary, and the read changes no register of the block (20_memory R59). -/
def Obligations.ValidSampleReadHasNoSideEffect : Prop :=
  ∀ (c : Params) (m : Framer c) (t : Framer c), m.port.readSample = true →
    step ⟨c, m⟩ = .next ⟨c, t⟩ →
    t.port.taken = some m.sample.toNat ∧
    ∃ u : Framer c, step ⟨c, { m with port := { m.port with readSample := false } }⟩ = .next ⟨c, u⟩ ∧
      t = { u with port := t.port }

/-! ### The handshake and the step -/

/-- 43_serial_framer R160: a step of a ready block with a command presented is `exec` of that command, and a step of a
busy block is `exec` of the command in `op`; around it the model adds the host's turn. -/
def Obligations.StepRunsTheDecodedCommand : Prop :=
  ∀ (c : Params) (m : Framer c), c.Legal → badRead m = false → m.port.rst = false → m.started = true →
    (m.fsm = .idle → m.respValid = false → m.port.cmdValid = true →
      step ⟨c, m⟩ = Outcome.thenHost true m.sample.toNat (exec (decode m.port.cmdOp) ⟨c, m⟩)) ∧
    (m.fsm ≠ .idle → step ⟨c, m⟩ = Outcome.thenHost false m.sample.toNat (exec (decode m.op) ⟨c, m⟩))

/-- Placing an opcode-table word (log entry 9): the next step is `exec` of the command the table word decodes to. -/
def Obligations.PlacedWordRunsNext : Prop :=
  ∀ (s : State) (w : Nat) (i : Instr), s.cfg.Legal → decodeTableWord 8 w = some i →
    step (s.withFetchWord 8 w) =
      Outcome.thenHost true s.fr.sample.toNat (exec i (s.withFetchWord 8 w))

/-- 43_serial_framer R160 (IDLE arm) and 60_exceptions R216: an IDLE block that accepts nothing keeps every register
but `resp_valid`, which becomes 0. -/
def Obligations.IdleBlockKeepsItsState : Prop :=
  ∀ (c : Params) (m : Framer c), c.Legal → badRead m = false → m.port.rst = false → m.started = true →
    m.fsm = .idle → (m.port.cmdValid = false ∨ m.respValid = true) →
    step ⟨c, m⟩ = .next ⟨c, { m with respValid := false, port := m.port.turn false m.sample.toNat }⟩

/-- 30_encoding R74: in a cycle in which `cmd_ready_o` = 0, `cmd_valid_i` and `cmd_op_i` have no effect on the block, the
lines or the outcome of the step. -/
def Obligations.UnreadyBlockIgnoresCommandPort : Prop :=
  ∀ (c : Params) (m t : Framer c) (v : Bool) (code : Code), cmdReady m = false →
    step ⟨c, m⟩ = .next ⟨c, t⟩ →
    ∃ u : Framer c,
      step ⟨c, { m with port := { m.port with cmdValid := v, cmdOp := code } }⟩ = .next ⟨c, u⟩ ∧
      u = { t with port := u.port }

/-- 30_encoding R75: `cmd_ready_o` is 0 while a command is in progress, in the cycle its response is shown and while
`rst_i` = 1; a command presented then is not accepted and stays presented, unchanged. -/
def Obligations.UnacceptedCommandStaysPresented : Prop :=
  ∀ (c : Params) (m : Framer c), (m.fsm ≠ .idle ∨ m.respValid = true ∨ m.port.rst = true) →
    cmdReady m = false ∧ accepts m = false ∧
    ∀ t : Framer c, step ⟨c, m⟩ = .next ⟨c, t⟩ → m.port.cmdValid = true →
      t.port.cmdValid = true ∧ t.port.cmdOp = m.port.cmdOp ∧ (m.port.rst = false → t.op = m.op)

/-- 10_state R24 and R42: every output is driven directly from its register (`sclk_o` and `hold_o` too, R25, R27);
`resp_status_o` shows the code of 30_encoding R80; `busy_o` and `cmd_ready_o` are derived; and whatever the levels of the
input ports are, no output depends on them in the same cycle but `cmd_ready_o`, which depends on `rst_i` alone. -/
def Obligations.OutputsShowTheRegisters : Prop :=
  ∀ (c : Params) (m : Framer c),
    (outputs m).respValid = m.respValid ∧ (outputs m).respStatus = m.respStatus.code ∧
    (m.respStatus = .ok → (outputs m).respStatus = 0b00#2) ∧
    (m.respStatus = .cancelled → (outputs m).respStatus = 0b01#2) ∧
    (m.respStatus = .illegal → (outputs m).respStatus = 0b10#2) ∧
    (outputs m).respBit = m.lastBit ∧ (outputs m).sample = m.sample ∧ (outputs m).sampleValid = m.sampleValid ∧
    (outputs m).synced = m.synced ∧ (outputs m).sclk = m.sclk ∧ (outputs m).hold = m.hold ∧
    ((outputs m).busy = true ↔ m.fsm ≠ .idle) ∧
    ((outputs m).cmdReady = true ↔ m.fsm = .idle ∧ m.port.rst = false ∧ m.respValid = false) ∧
    (∀ port : HostPort, outputs { m with port := port } =
      { outputs m with cmdReady := (outputs { m with port := port }).cmdReady }) ∧
    (∀ port : HostPort, port.rst = m.port.rst → outputs { m with port := port } = outputs m)

/-! ### What each command does -/

/-- 43_serial_framer R163: a reserved code is answered ILLEGAL at its acceptance; only `op`, `resp_status` and
`resp_valid` change. -/
def Obligations.ReservedCodeIsAnsweredIllegal : Prop :=
  ∀ (c : Params) (m : Framer c), m.fsm = .idle →
    exec .rsvd0 ⟨c, m⟩ = .next ⟨c, { m with op := 0b000#3, respStatus := .illegal, respValid := true }⟩ ∧
    exec .rsvd7 ⟨c, m⟩ = .next ⟨c, { m with op := 0b111#3, respStatus := .illegal, respValid := true }⟩

/-- 40_clock_generator R105: PULSE enters the PULSE phase, and its one step makes one pulse, reads the line into
`last_bit`, clears `synced` and responds OK, whatever `cancel_i` is. -/
def Obligations.PulseReadsOneBit : Prop :=
  ∀ (c : Params) (m : Framer c),
    (m.fsm = .idle →
      exec .pulse ⟨c, m⟩ = .next ⟨c, { m with op := 0b001#3, respValid := false, fsm := .pulse }⟩) ∧
    (m.fsm = .pulse → m.sclk = true →
      exec .pulse ⟨c, m⟩ = .next ⟨c, { m with
        line := m.line.shift, pulses := m.pulses + 1, lastBit := m.line.shift.level, synced := false,
        respStatus := .ok, respValid := true, fsm := .idle }⟩)

/-- 40_clock_generator R106: FLUSH enters the FLUSH phase with `cnt` = 0; each step makes one pulse, reads nothing and
counts it, and the P-th responds OK, whatever `cancel_i` is. -/
def Obligations.FlushCountsUnreadPulses : Prop :=
  ∀ (c : Params) (m : Framer c),
    (m.fsm = .idle →
      exec .flush ⟨c, m⟩ = .next ⟨c, { m with op := 0b010#3, respValid := false, fsm := .flush, cnt := 0 }⟩) ∧
    (m.fsm = .flush → m.sclk = true → m.cnt.toNat + 1 < c.p →
      exec .flush ⟨c, m⟩ = .next ⟨c, { m with
        line := m.line.shift, pulses := m.pulses + 1, synced := false, cnt := m.cnt + 1, respValid := false }⟩) ∧
    (m.fsm = .flush → m.sclk = true → m.cnt.toNat + 1 = c.p →
      exec .flush ⟨c, m⟩ = .next ⟨c, { m with
        line := m.line.shift, pulses := m.pulses + 1, synced := false, cnt := m.cnt + 1,
        respStatus := .ok, respValid := true, fsm := .idle }⟩)

/-- 41_frame_synchronizer R121, R122, R123: SYNC enters the SYNC phase with `zrun` = 0; a step is cancelled without a
pulse, or samples a bit: a 1 sets `zrun` to 0, a 0 adds one, and the zero that makes it K sets `synced` and responds OK. -/
def Obligations.SyncSearchesForTheMarker : Prop :=
  ∀ (c : Params) (m : Framer c),
    (m.fsm = .idle →
      exec .sync ⟨c, m⟩ = .next ⟨c, { m with op := 0b011#3, respValid := false, fsm := .sync, zrun := 0 }⟩) ∧
    (m.fsm = .sync → m.port.cancel = true →
      exec .sync ⟨c, m⟩ = .next ⟨c, { m with respStatus := .cancelled, respValid := true, fsm := .idle }⟩) ∧
    (m.fsm = .sync → m.port.cancel = false → m.sclk = true → 1 ≤ c.k → m.line.shift.level = true →
      exec .sync ⟨c, m⟩ = .next ⟨c, { m with
        line := m.line.shift, pulses := m.pulses + 1, lastBit := true, synced := false, zrun := 0,
        respValid := false }⟩) ∧
    (m.fsm = .sync → m.port.cancel = false → m.sclk = true → m.line.shift.level = false →
      m.zrun.toNat + 1 < c.k →
      exec .sync ⟨c, m⟩ = .next ⟨c, { m with
        line := m.line.shift, pulses := m.pulses + 1, lastBit := false, synced := false, zrun := m.zrun + 1,
        respValid := false }⟩) ∧
    (m.fsm = .sync → m.port.cancel = false → m.sclk = true → m.line.shift.level = false →
      m.zrun.toNat + 1 = c.k →
      exec .sync ⟨c, m⟩ = .next ⟨c, { m with
        line := m.line.shift, pulses := m.pulses + 1, lastBit := false, synced := true, zrun := m.zrun + 1,
        respStatus := .ok, respValid := true, fsm := .idle }⟩)

/-- 42_adc_bit_collector R141: READ enters the READ phase with `shreg` = 0 and `cnt` = 0; each step samples a bit and
shifts it in at bit 0, and the W-th commits the whole value and responds OK, whatever `cancel_i` and `synced` are. -/
def Obligations.ReadShiftsInAndCommits : Prop :=
  ∀ (c : Params) (m : Framer c),
    (m.fsm = .idle →
      exec .read ⟨c, m⟩ = .next ⟨c, { m with
        op := 0b100#3, respValid := false, fsm := .read, shreg := 0, cnt := 0 }⟩) ∧
    (m.fsm = .read → m.sclk = true → m.cnt.toNat + 1 < c.w →
      exec .read ⟨c, m⟩ = .next ⟨c, { m with
        line := m.line.shift, pulses := m.pulses + 1, lastBit := m.line.shift.level, synced := false,
        shreg := m.shreg.shiftConcat m.line.shift.level, cnt := m.cnt + 1, respValid := false }⟩) ∧
    (m.fsm = .read → m.sclk = true → m.cnt.toNat + 1 = c.w →
      exec .read ⟨c, m⟩ = .next ⟨c, { m with
        line := m.line.shift, pulses := m.pulses + 1, lastBit := m.line.shift.level, synced := false,
        shreg := m.shreg.shiftConcat m.line.shift.level, cnt := m.cnt + 1,
        sample := m.shreg.shiftConcat m.line.shift.level, sampleValid := true,
        respStatus := .ok, respValid := true, fsm := .idle }⟩)

/-- 43_serial_framer R161: ACQUIRE enters the SYNC phase; a cancel there ends it with no READ pulse; the zero that
completes the marker enters the READ phase in the same step, with no response; the W-th READ pulse responds OK. -/
def Obligations.AcquireSynchronizesThenReads : Prop :=
  ∀ (c : Params) (m : Framer c),
    (m.fsm = .idle →
      exec .acquire ⟨c, m⟩ = .next ⟨c, { m with op := 0b101#3, respValid := false, fsm := .sync, zrun := 0 }⟩) ∧
    (m.fsm = .sync → m.port.cancel = true →
      exec .acquire ⟨c, m⟩ = .next ⟨c, { m with respStatus := .cancelled, respValid := true, fsm := .idle }⟩) ∧
    (m.fsm = .sync → m.port.cancel = false → m.sclk = true → m.line.shift.level = false →
      m.zrun.toNat + 1 = c.k →
      exec .acquire ⟨c, m⟩ = .next ⟨c, { m with
        line := m.line.shift, pulses := m.pulses + 1, lastBit := false, synced := true, zrun := m.zrun + 1,
        respValid := false, fsm := .read, shreg := 0, cnt := 0 }⟩) ∧
    (m.fsm = .sync → m.port.cancel = false → m.sclk = true → m.zrun.toNat < c.k →
      (m.line.shift.level = true ∨ m.zrun.toNat + 1 < c.k) →
      exec .acquire ⟨c, m⟩ = exec .sync ⟨c, m⟩) ∧
    (m.fsm = .read → exec .acquire ⟨c, m⟩ = exec .read ⟨c, m⟩) ∧
    (m.fsm = .read → m.sclk = true → m.cnt.toNat + 1 = c.w →
      exec .acquire ⟨c, m⟩ = .next ⟨c, { m with
        line := m.line.shift, pulses := m.pulses + 1, lastBit := m.line.shift.level, synced := false,
        shreg := m.shreg.shiftConcat m.line.shift.level, cnt := m.cnt + 1,
        sample := m.shreg.shiftConcat m.line.shift.level, sampleValid := true,
        respStatus := .ok, respValid := true, fsm := .idle }⟩)

/-- 43_serial_framer R162: STARTUP enters the SYNC phase; a cancel there ends it with no flush pulse; the zero that
completes the marker enters the FLUSH phase in the same step, with no response; the P-th flush pulse responds OK, and
`sample` and `sample_valid` never change. -/
def Obligations.StartupSynchronizesThenFlushes : Prop :=
  ∀ (c : Params) (m : Framer c),
    (m.fsm = .idle →
      exec .startup ⟨c, m⟩ = .next ⟨c, { m with op := 0b110#3, respValid := false, fsm := .sync, zrun := 0 }⟩) ∧
    (m.fsm = .sync → m.port.cancel = true →
      exec .startup ⟨c, m⟩ = .next ⟨c, { m with respStatus := .cancelled, respValid := true, fsm := .idle }⟩) ∧
    (m.fsm = .sync → m.port.cancel = false → m.sclk = true → m.line.shift.level = false →
      m.zrun.toNat + 1 = c.k →
      exec .startup ⟨c, m⟩ = .next ⟨c, { m with
        line := m.line.shift, pulses := m.pulses + 1, lastBit := false, synced := true, zrun := m.zrun + 1,
        respValid := false, fsm := .flush, cnt := 0 }⟩) ∧
    (m.fsm = .sync → m.port.cancel = false → m.sclk = true → m.zrun.toNat < c.k →
      (m.line.shift.level = true ∨ m.zrun.toNat + 1 < c.k) →
      exec .startup ⟨c, m⟩ = exec .sync ⟨c, m⟩) ∧
    (m.fsm = .flush → exec .startup ⟨c, m⟩ = exec .flush ⟨c, m⟩) ∧
    (m.fsm = .flush → m.sclk = true → m.cnt.toNat + 1 = c.p →
      exec .startup ⟨c, m⟩ = .next ⟨c, { m with
        line := m.line.shift, pulses := m.pulses + 1, synced := false, cnt := m.cnt + 1,
        respStatus := .ok, respValid := true, fsm := .idle }⟩)

/-! ### Cancellation -/

/-- 60_exceptions R203: `cancel_i` = 1 at a step boundary of a SYNC phase ends the command CANCELLED with no further
pulse: nothing but the phase and the response changes. -/
def Obligations.CancelEndsASyncPhase : Prop :=
  ∀ (c : Params) (m : Framer c) (i : Instr), m.fsm = .sync → m.port.cancel = true → i.startsWithSync = true →
    exec i ⟨c, m⟩ = .next ⟨c, { m with respStatus := .cancelled, respValid := true, fsm := .idle }⟩

/-- 60_exceptions R205: while the block is IDLE or in a phase other than SYNC the level of `cancel_i` leaves no trace: the
step does the same to every register and line whatever the level is. -/
def Obligations.CancelLeavesNoTraceOutsideSync : Prop :=
  ∀ (c : Params) (m t : Framer c) (level : Bool), m.fsm ≠ .sync → step ⟨c, m⟩ = .next ⟨c, t⟩ →
    ∃ u : Framer c, step ⟨c, { m with port := { m.port with cancel := level } }⟩ = .next ⟨c, u⟩ ∧
      u = { t with port := u.port }

/-- 60_exceptions R207: a SYNC-phase command accepted with `cancel_i` held at 1 is cancelled at its first step boundary
and issues no pulse. -/
def Obligations.CancelledAtFirstBoundaryIssuesNoPulse : Prop :=
  ∀ (c : Params) (m : Framer c), Calm m → m.fsm = .idle → m.respValid = false → m.port.cmdValid = true →
    (decode m.port.cmdOp).startsWithSync = true → m.port.cancel = true → m.port.nextMove.cancel = true →
    ∃ t : Framer c, Sys2Proof.core.run 2 ⟨c, m⟩ = .next ⟨c, t⟩ ∧
      t.fsm = .idle ∧ t.respValid = true ∧ t.respStatus = .cancelled ∧ t.pulses = m.pulses ∧ t.line = m.line ∧
      t.synced = m.synced ∧ t.lastBit = m.lastBit ∧ t.sample = m.sample ∧ t.sampleValid = m.sampleValid

/-! ### Frames -/

/-- What no command changes: the HOLD line, the host's ports, the build parameters and that a reset has happened. -/
def Obligations.NoCommandTouchesHostOrHold : Prop :=
  ∀ (c : Params) (m : Framer c) (i : Instr) (t : State), exec i ⟨c, m⟩ = .next t →
    ∃ u : Framer c, t = ⟨c, u⟩ ∧ u.hold = m.hold ∧ u.port = m.port ∧ u.started = m.started

/-- PULSE's frame (40_clock_generator R105, "unchanged"): in its phases it writes only `op`, `fsm`, `last_bit`, `synced`
and the response, and moves only the clock line and the converter. -/
def Obligations.PulseFrame : Prop :=
  ∀ (c : Params) (m : Framer c) (t : State), m.fsm = .idle ∨ m.fsm = .pulse → exec .pulse ⟨c, m⟩ = .next t →
    ∃ u : Framer c, t = ⟨c, u⟩ ∧ u.zrun = m.zrun ∧ u.cnt = m.cnt ∧ u.shreg = m.shreg ∧ u.sample = m.sample ∧
      u.sampleValid = m.sampleValid ∧ u.hold = m.hold ∧ u.port = m.port ∧ u.started = m.started

/-- FLUSH's frame (40_clock_generator R106, "unchanged"). -/
def Obligations.FlushFrame : Prop :=
  ∀ (c : Params) (m : Framer c) (t : State), m.fsm = .idle ∨ m.fsm = .flush → exec .flush ⟨c, m⟩ = .next t →
    ∃ u : Framer c, t = ⟨c, u⟩ ∧ u.lastBit = m.lastBit ∧ u.zrun = m.zrun ∧ u.shreg = m.shreg ∧
      u.sample = m.sample ∧ u.sampleValid = m.sampleValid ∧ u.hold = m.hold ∧ u.port = m.port ∧
      u.started = m.started

/-- SYNC's frame (41_frame_synchronizer R121, "unchanged"). -/
def Obligations.SyncFrame : Prop :=
  ∀ (c : Params) (m : Framer c) (t : State), m.fsm = .idle ∨ m.fsm = .sync → exec .sync ⟨c, m⟩ = .next t →
    ∃ u : Framer c, t = ⟨c, u⟩ ∧ u.cnt = m.cnt ∧ u.shreg = m.shreg ∧ u.sample = m.sample ∧
      u.sampleValid = m.sampleValid ∧ u.hold = m.hold ∧ u.port = m.port ∧ u.started = m.started

/-- READ's frame (42_adc_bit_collector R141, "unchanged"): `zrun` always, and `sample` and `sample_valid` at every step
but the one that ends the phase. -/
def Obligations.ReadFrame : Prop :=
  ∀ (c : Params) (m : Framer c) (t : State), m.fsm = .idle ∨ m.fsm = .read → exec .read ⟨c, m⟩ = .next t →
    ∃ u : Framer c, t = ⟨c, u⟩ ∧ u.zrun = m.zrun ∧ u.hold = m.hold ∧ u.port = m.port ∧ u.started = m.started ∧
      (u.fsm = .read → u.sample = m.sample ∧ u.sampleValid = m.sampleValid)

/-- The frames of ACQUIRE and STARTUP (43_serial_framer R161, R162): ACQUIRE changes `sample` and `sample_valid` only at
the step that ends its READ phase, STARTUP changes neither and not `shreg`. -/
def Obligations.CompositeFrames : Prop :=
  ∀ (c : Params) (m : Framer c) (t : State),
    (m.fsm = .idle ∨ m.fsm = .sync ∨ m.fsm = .read → exec .acquire ⟨c, m⟩ = .next t →
      ∃ u : Framer c, t = ⟨c, u⟩ ∧ u.hold = m.hold ∧ u.port = m.port ∧ u.started = m.started ∧
        (m.fsm = .read → u.zrun = m.zrun) ∧
        (m.fsm ≠ .read ∨ u.fsm = .read → u.sample = m.sample ∧ u.sampleValid = m.sampleValid)) ∧
    (m.fsm = .idle ∨ m.fsm = .sync ∨ m.fsm = .flush → exec .startup ⟨c, m⟩ = .next t →
      ∃ u : Framer c, t = ⟨c, u⟩ ∧ u.hold = m.hold ∧ u.port = m.port ∧ u.started = m.started ∧
        u.sample = m.sample ∧ u.sampleValid = m.sampleValid ∧ u.shreg = m.shreg ∧
        (m.fsm = .flush → u.zrun = m.zrun ∧ u.lastBit = m.lastBit))

/-! ### Whole phases -/

/-- 40_clock_generator R107 (FLUSH): from the start of a FLUSH phase, exactly P steps issue exactly P pulses, read none
of their bits, and end in the OK response. -/
def Obligations.FlushBurstIssuesExactlyP : Prop :=
  ∀ (c : Params) (m : Framer c), Calm m → m.fsm = .flush → m.cnt = 0 → m.sclk = true →
    ∃ t : Framer c, Sys2Proof.core.run c.p ⟨c, m⟩ = .next ⟨c, t⟩ ∧
      t.fsm = .idle ∧ t.respValid = true ∧ t.respStatus = .ok ∧ t.synced = false ∧ t.cnt.toNat = c.p ∧
      t.line = Converter.shifts c.p m.line ∧ t.pulses = m.pulses + c.p ∧ t.lastBit = m.lastBit ∧
      t.zrun = m.zrun ∧ t.shreg = m.shreg ∧ t.sample = m.sample ∧ t.sampleValid = m.sampleValid

/-- 42_adc_bit_collector R142: after j pulses of a READ phase (1 <= j <= W), `shreg` is the MSB-first value of the j bits
read. -/
def Obligations.ShregHoldsTheBitsReadSoFar : Prop :=
  ∀ (c : Params) (m : Framer c) (j : Nat), Calm m → m.fsm = .read → m.cnt = 0 → m.shreg = 0 → m.sclk = true →
    1 ≤ j → j ≤ c.w →
    ∃ t : Framer c, Sys2Proof.core.run j ⟨c, m⟩ = .next ⟨c, t⟩ ∧
      t.shreg.toNat = msbValue (Converter.upcoming j m.line) ∧ t.cnt.toNat = j ∧ t.pulses = m.pulses + j

/-- 42_adc_bit_collector R143 and R144: the READ phase ends at exactly its W-th pulse, no shorter run ends it, and then
`sample` is the MSB-first value of the W bits read: the i-th bit read is `sample[W-1-i]`. The claim on the value takes the
premise 70_reset_and_hazards R238 names, that the READ is framed; of an unframed READ (R148) only that it runs to its end
is claimed, and nothing of its value (92_eei_decisions D8). -/
def Obligations.ReadAssemblesMostSignificantFirst : Prop :=
  ∀ (c : Params) (m : Framer c), Calm m → m.fsm = .read → m.cnt = 0 → m.shreg = 0 → m.sclk = true →
    ReadTakesWPulses m ∧ (FramedPhase m → ReadCommitsItsBits m)

/-- 42_adc_bit_collector R145: reading the W-bit MSB-first spelling of a raw value gives that value back, and no other
W bits have that value. The claim on a READ's value takes the premise 70_reset_and_hazards R238 names, that the READ is
framed. -/
def Obligations.ReadReturnsTheSpelledValue : Prop :=
  (∀ (c : Params) (m : Framer c) (raw : Nat) (rest : List Bit), Calm m → m.fsm = .read → m.cnt = 0 →
    m.shreg = 0 → m.sclk = true → FramedPhase m → m.line.driven = true → raw < 2 ^ c.w →
    m.line.named = msbSpelling c.w raw ++ rest → ReadGives m raw) ∧
  (∀ bits bits' : List Bit, bits.length = bits'.length → msbValue bits = msbValue bits' → bits = bits') ∧
  (∀ bits : List Bit, msbValue bits < 2 ^ bits.length)

/-- 41_frame_synchronizer R125, the closed form: as long as no K of the bits read so far in the phase end in zeros the
phase goes on, with `zrun` the number of zeros they end in; it completes at the least n whose last K bits are all 0, into
the response of SYNC, the READ phase of ACQUIRE or the FLUSH phase of STARTUP. -/
def Obligations.SyncCompletesAtTheFirstMarker : Prop :=
  ∀ (c : Params) (m : Framer c), Calm m → NoCancel m.port → m.fsm = .sync → m.zrun = 0 → m.sclk = true →
    (decode m.op).startsWithSync = true →
    (∀ j, (∀ i ≤ j, ¬ ZerosEndAt c.k i (Converter.upcoming j m.line)) →
      ∃ t : Framer c, Sys2Proof.core.run j ⟨c, m⟩ = .next ⟨c, t⟩ ∧ t.fsm = .sync ∧
        t.zrun.toNat = trailingZeros (Converter.upcoming j m.line) ∧ t.pulses = m.pulses + j) ∧
    (∀ n, CompletesAt c.k n (Converter.upcoming n m.line) →
      ∃ t : Framer c, Sys2Proof.core.run n ⟨c, m⟩ = .next ⟨c, t⟩ ∧
        (decode m.op = .sync → t.fsm = .idle ∧ t.respValid = true ∧ t.respStatus = .ok) ∧
        (decode m.op = .acquire → t.fsm = .read) ∧ (decode m.op = .startup → t.fsm = .flush) ∧
        t.synced = true ∧ t.zrun.toNat = c.k ∧ t.lastBit = false ∧
        t.pulses = m.pulses + n ∧ t.line = Converter.shifts n m.line)

/-- 41_frame_synchronizer R126: on a stream that never holds K consecutive zeros a SYNC phase issues pulses for ever
unless cancelled or reset; an undriven line is such a stream. -/
def Obligations.SyncHasNoTimeout : Prop :=
  ∀ (c : Params) (m : Framer c), Calm m → NoCancel m.port → m.fsm = .sync → m.zrun = 0 → m.sclk = true →
    (decode m.op).startsWithSync = true →
    (m.line.driven = false ∨ ∀ n, ¬ ZerosEndAt c.k n (Converter.upcoming n m.line)) →
    ∀ n, ∃ t : Framer c, Sys2Proof.core.run n ⟨c, m⟩ = .next ⟨c, t⟩ ∧ t.fsm = .sync ∧ busy t = true ∧
      t.pulses = m.pulses + n

/-- 70_reset_and_hazards R238: under the named premise that `synced_o` = 1 at READ's acceptance, the READ reads the next W
bits of the converter, the first data bits after the marker, and returns the value they spell, after W pulses. -/
def Obligations.FramedReadReturnsTheFrameValue : Prop :=
  ∀ (c : Params) (m : Framer c) (raw : Nat) (rest : List Bit), Calm m → m.sclk = true → accepts m = true →
    decode m.port.cmdOp = .read → FramedRead m → m.line.driven = true → raw < 2 ^ c.w →
    m.line.named = msbSpelling c.w raw ++ rest →
    ∃ v t : Framer c, step ⟨c, m⟩ = .next ⟨c, v⟩ ∧ v.synced = true ∧ v.line = m.line ∧
      Sys2Proof.core.run c.w ⟨c, v⟩ = .next ⟨c, t⟩ ∧ t.respValid = true ∧ t.respStatus = .ok ∧
      t.sampleValid = true ∧ t.sample.toNat = raw ∧ t.synced = false ∧ t.pulses = m.pulses + c.w

/-- 43_serial_framer R161 and 41_frame_synchronizer R127: an ACQUIRE whose SYNC phase completes at its n-th pulse commits
the W bits after the marker, whatever they are, and answers OK after n + W pulses; no marker bit is in the sample. -/
def Obligations.AcquireReturnsTheBitsAfterTheMarker : Prop :=
  ∀ (c : Params) (m : Framer c) (n : Nat), Calm m → NoCancel m.port → m.fsm = .sync → m.zrun = 0 →
    m.sclk = true → decode m.op = .acquire → CompletesAt c.k n (Converter.upcoming n m.line) →
    ∃ t : Framer c, Sys2Proof.core.run (n + c.w) ⟨c, m⟩ = .next ⟨c, t⟩ ∧
      t.sample.toNat = msbValue ((Converter.upcoming (n + c.w) m.line).drop n) ∧ t.sampleValid = true ∧
      t.fsm = .idle ∧ t.respValid = true ∧ t.respStatus = .ok ∧ t.synced = false ∧ t.zrun.toNat = c.k ∧
      t.cnt.toNat = c.w ∧ t.lastBit = t.sample.getLsbD 0 ∧ t.pulses = m.pulses + (n + c.w) ∧
      t.line = Converter.shifts (n + c.w) m.line

/-- 43_serial_framer R167 (SYNC then READ against ACQUIRE): from the same SYNC phase, on a stream that completes it at
its n-th pulse, SYNC's n steps, the acceptance of READ and its W steps leave the same registers, lines and pulse count as
ACQUIRE's n + W steps. -/
def Obligations.SyncThenReadEqualsAcquire : Prop :=
  ∀ (c : Params) (m : Framer c) (n : Nat), Calm m → NoCancel m.port → m.fsm = .sync → m.zrun = 0 →
    m.sclk = true → CompletesAt c.k n (Converter.upcoming n m.line) →
    ∃ a t v u : Framer c,
      Sys2Proof.core.run (n + c.w) ⟨c, { m with op := encode .acquire }⟩ = .next ⟨c, a⟩ ∧
      Sys2Proof.core.run n ⟨c, { m with op := encode .sync }⟩ = .next ⟨c, t⟩ ∧
      exec .read ⟨c, t⟩ = .next ⟨c, v⟩ ∧
      Sys2Proof.core.run c.w ⟨c, v⟩ = .next ⟨c, u⟩ ∧
      a = { u with op := encode .acquire }

/-- 43_serial_framer R167 (SYNC then FLUSH against STARTUP). -/
def Obligations.SyncThenFlushEqualsStartup : Prop :=
  ∀ (c : Params) (m : Framer c) (n : Nat), Calm m → NoCancel m.port → m.fsm = .sync → m.zrun = 0 →
    m.sclk = true → CompletesAt c.k n (Converter.upcoming n m.line) →
    ∃ a t v u : Framer c,
      Sys2Proof.core.run (n + c.p) ⟨c, { m with op := encode .startup }⟩ = .next ⟨c, a⟩ ∧
      Sys2Proof.core.run n ⟨c, { m with op := encode .sync }⟩ = .next ⟨c, t⟩ ∧
      exec .flush ⟨c, t⟩ = .next ⟨c, v⟩ ∧
      Sys2Proof.core.run c.p ⟨c, v⟩ = .next ⟨c, u⟩ ∧
      a = { u with op := encode .startup }

/-! ### Invariants and rules of the whole machine -/

/-- The machine right after reset meets the invariant. -/
def Obligations.ResetMeetsTheInvariant : Prop := Inv State.reset

/-- The invariant of Safety.lean: high clock at every boundary, bounded counters, a phase of the command in progress, a
response only from an IDLE block with a status its command can end with. Every step keeps it, from every state. -/
def Obligations.EveryStepKeepsTheInvariant : Prop :=
  ∀ s t : State, Inv s → step s = .next t → Inv t

/-- No refusal and no fault but the ones the spec asks for: a machine that meets the invariant, is legal and has been
reset, and whose host makes no read that 10_state R47 faults, has a next state. -/
def Obligations.LegalMachineAlwaysSteps : Prop :=
  ∀ (c : Params) (m : Framer c), Inv ⟨c, m⟩ → c.Legal → m.started = true → badRead m = false →
    ∃ t, step ⟨c, m⟩ = .next t

/-- A machine that meets the invariant and whose host neither resets it nor reads `sample_o` runs safely for ever. -/
def Obligations.CalmMachineRunsSafely : Prop :=
  ∀ (c : Params) (m : Framer c), Inv ⟨c, m⟩ → Calm m → SafeRun ⟨c, m⟩

/-- 00_scope R10: no step changes K, W or P. -/
def Obligations.BuildParametersNeverChange : Prop :=
  ∀ s t : State, step s = .next t → t.cfg = s.cfg

/-- 40_clock_generator R102: the clock line is high at every step boundary of a block that has been reset. -/
def Obligations.ClockIsHighAtEveryBoundary : Prop :=
  ∀ (c : Params) (m : Framer c) (t : State), (m.started = true → m.sclk = true) → step ⟨c, m⟩ = .next t →
    t.fr.sclk = true

/-- 10_state R27: the HOLD line stays low, in reset and out of it. -/
def Obligations.HoldLineStaysLow : Prop :=
  ∀ (c : Params) (m : Framer c) (t : State), (m.started = true → m.hold = false) → step ⟨c, m⟩ = .next t →
    t.fr.hold = false

/-- 20_memory R58: `sample` changes only at the end of the W-th pulse of a READ phase, to the whole new value, or by
reset. -/
def Obligations.SampleIsCommittedWhole : Prop :=
  ∀ (c : Params) (m t : Framer c), m.sclk = true → m.port.rst = false → step ⟨c, m⟩ = .next ⟨c, t⟩ →
    (t.sample = m.sample ∧ t.sampleValid = m.sampleValid) ∨
    (m.fsm = .read ∧ (m.cnt + 1).toNat = c.w ∧ t.sample = m.shreg.shiftConcat m.line.shift.level ∧
      t.sampleValid = true ∧ t.fsm = .idle ∧ t.respValid = true ∧ t.respStatus = .ok)

/-- 10_state R37: a step that issues a pulse leaves `synced` = 1 exactly if that pulse completed a marker; a step that
issues none leaves it as it was; reset clears it. -/
def Obligations.SyncedMarksTheLastPulse : Prop :=
  ∀ (c : Params) (m t : Framer c), m.sclk = true → step ⟨c, m⟩ = .next ⟨c, t⟩ →
    (m.port.rst = true → t.synced = false) ∧
    (m.port.rst = false → t.pulses = m.pulses → t.synced = m.synced) ∧
    (m.port.rst = false → t.pulses ≠ m.pulses →
      (t.synced = true ↔ m.fsm = .sync ∧ (nextRun m.line.shift.level m.zrun).toNat = c.k))

/-- 20_memory R53: every pulse, sampled or not, consumes exactly one bit position, and a step without a pulse none; a
sampled pulse reads the position it consumed, a flush pulse reads nothing. -/
def Obligations.EveryPulseConsumesOnePosition : Prop :=
  ∀ (c : Params) (m t : Framer c), m.sclk = true → m.port.rst = false → step ⟨c, m⟩ = .next ⟨c, t⟩ →
    (t.pulses = m.pulses ∧ t.line = m.line ∧ t.lastBit = m.lastBit) ∨
    (m.fsm ≠ .idle ∧ t.pulses = m.pulses + 1 ∧ t.line = m.line.shift ∧ t.line.pos = m.line.pos + 1 ∧
      t.lastBit = if m.fsm = .flush then m.lastBit else t.line.level)

/-- 10_state R40: `resp_valid` is 1 exactly in the cycle after the one in which a command finished: its last phase ended,
or its reserved code was accepted; reset leaves it 0. -/
def Obligations.ResponseIsShownForOneCycle : Prop :=
  ∀ (c : Params) (m t : Framer c), step ⟨c, m⟩ = .next ⟨c, t⟩ →
    (t.respValid = true ↔
      m.port.rst = false ∧
      ((m.fsm ≠ .idle ∧ t.fsm = .idle) ∨
       (m.fsm = .idle ∧ accepts m = true ∧ (decode m.port.cmdOp).reserved = true)))

/-! ### Encoding and widths -/

/-- 30_encoding R73: decoding is total; decoding an encoded command gives it back, and encoding what a code decodes to
gives the code back. -/
def Obligations.DecodeAndEncodeAgree : Prop :=
  (∀ i : Instr, i.wellFormed = true → decode (encode i) = i) ∧ (∀ code : Code, encode (decode code) = code)

/-- 30_encoding R71: the eight rows of the opcode map, and a number above the port's three bits is no command. -/
def Obligations.OpcodeMapRows : Prop :=
  decodeTableWord 8 0b000 = some .rsvd0 ∧ decodeTableWord 8 0b001 = some .pulse ∧
  decodeTableWord 8 0b010 = some .flush ∧ decodeTableWord 8 0b011 = some .sync ∧
  decodeTableWord 8 0b100 = some .read ∧ decodeTableWord 8 0b101 = some .acquire ∧
  decodeTableWord 8 0b110 = some .startup ∧ decodeTableWord 8 0b111 = some .rsvd7 ∧
  (∀ w, 8 ≤ w → w < 256 → decodeTableWord 8 w = none)

/-- 00_scope R9: `clog2` is the least exponent, so each counter's width holds every value up to its bound; in the
reference configuration ZW = 3 and CW = 5. -/
def Obligations.CounterWidthsAreLeast : Prop :=
  (∀ n, n ≤ 2 ^ clog2 n ∧ ∀ e, n ≤ 2 ^ e → clog2 n ≤ e) ∧
  (∀ c : Params, c.zw = clog2 (c.k + 1) ∧ c.cw = clog2 (max c.w c.p + 1) ∧
    c.k < 2 ^ c.zw ∧ max c.w c.p < 2 ^ c.cw) ∧
  Params.reference.zw = 3 ∧ Params.reference.cw = 5

/-! ### The host's software -/

/-- 44_host_operations R183: raw 0 converts to the offset, raw 2^W - 1 to Vref·(1 - 2^-W) + offset, which is never
exactly Vref above the offset. -/
def Obligations.VoltageBoundaries : Prop :=
  ∀ (w : Nat) (vref offset : Rat),
    toVoltage 0 w vref offset = offset ∧
    toVoltage (2 ^ w - 1) w vref offset = vref * (1 - 1 / 2 ^ w) + offset ∧
    (vref ≠ 0 → toVoltage (2 ^ w - 1) w vref offset ≠ vref + offset)

/-- 44_host_operations R180, R184, R187, R188, R191: at the boundary that shows the OK response to the loop's READ or
ACQUIRE, a RUNNING loop reads the committed `sample_o`, keeps its voltage with the time of that response, and records it
exactly when it is strictly above the threshold; a failed write is reported and the loop goes on. The voltage is computed
with the block's own W, whatever `lc` holds (R185; R194, configuration; log entry 24). -/
def Obligations.RunningCycleRecordsAboveThreshold : Prop :=
  ∀ (lc : LoopConfig) (e : LoopInput) (x y : System) (i : Instr) (base : Nat), x.step lc e = .next y →
    x.loop.phase = .running → x.loop.booted = true → x.loop.issue = .running i base → i = .read ∨ i = .acquire →
    x.st.fr.respValid = true → x.st.fr.respStatus = .ok → e.terminate = false → e.reset = false →
    ∃ v : Rat, v = toVoltageIn lc.float x.st.fr.sample.toNat x.st.cfg.w lc.vref lc.offset ∧
      (lc.Agrees x.st.cfg → v = lc.voltage x.st.fr.sample.toNat) ∧
      y.loop.last = some { stamp := e.now, voltage := v } ∧
      y.st.fr.port.taken = some x.st.fr.sample.toNat ∧ y.loop.phase = .running ∧
      y.loop.sink = (if lc.threshold < v ∧ e.writeOk = true
        then x.loop.sink ++ [{ stamp := e.now, voltage := v }] else x.loop.sink) ∧
      y.loop.reports = (if lc.threshold < v ∧ e.writeOk = false then x.loop.reports + 1 else x.loop.reports)

/-- 44_host_operations R194 (after reset), 70_reset_and_hazards R235, R236: the loop takes no sample unless its STARTUP
has answered OK since the last reset. That a reset puts a loop that has not ended back into STARTING is the model's
deduction from these rules (log entry 22). -/
def Obligations.LoopTrustsNoSampleBeforeStartup : Prop :=
  ∀ (lc : LoopConfig) (e : LoopInput) (x y : System), x.step lc e = .next y →
    (x.loop.booted = false → y.loop.last = x.loop.last) ∧
    (x.loop.booted = false → y.loop.booted = true →
      ∃ base, x.loop.issue = .running .startup base ∧ x.st.fr.respValid = true ∧ x.st.fr.respStatus = .ok) ∧
    (e.reset = true → y.loop.booted = false ∧ y.loop.phase ≠ .running) ∧
    (e.reset = true → e.terminate = false → x.loop.phase = .starting ∨ x.loop.phase = .running →
      y.loop.phase = .starting)

/-- 44_host_operations R192 (waiting): while the host terminates and its command is not answered yet, it drives
`cancel_i` = 1, writes no record and keeps the sink open. Two points are the model's choice (log entry 22): a command that
is only presented counts as one to wait for, in a reset cycle too; and a reset that aborts the command in progress, which
then gets no response (70_reset_and_hazards R231), ends the wait, so that the sink is closed at that boundary. -/
def Obligations.TerminationWaitsForTheResponse : Prop :=
  ∀ (lc : LoopConfig) (e : LoopInput) (x y : System), x.step lc e = .next y → x.loop.phase = .terminating →
    (y.st.fr.port.cancel = true) ∧
    ((∃ i, x.loop.issue = .presented i) ∨
        ((∃ i base, x.loop.issue = .running i base) ∧ x.st.fr.respValid = false ∧ e.reset = false) →
      y.loop.phase = .terminating ∧ y.loop.issue ≠ .free ∧ y.loop.sink = x.loop.sink ∧
      y.loop.sinkOpen = x.loop.sinkOpen ∧ y.loop.last = x.loop.last) ∧
    ((∃ i base, x.loop.issue = .running i base) → e.reset = true →
      y.loop.phase = .closed ∧ y.loop.sinkOpen = false)

/-- 44_host_operations R190, R191, R192: once no command is in progress, termination closes the sink, whether or not the
final record can be written; the final record is attempted only if a last sample exists and its voltage passes the
filter. Before that, and in every other phase, the end of termination does nothing. Which time the record bears is left
open (log entry 22). -/
def Obligations.FinalRecordOnlyIfASampleExists : Prop :=
  ∀ (lc : LoopConfig) (e : LoopInput) (l : Loop),
    (l.phase = .terminating → l.issue = .free →
      (l.finish lc e).phase = .closed ∧ (l.finish lc e).sinkOpen = false ∧ (l.finish lc e).last = l.last ∧
      (l.last = none → (l.finish lc e).sink = l.sink ∧ (l.finish lc e).reports = l.reports) ∧
      (∀ s, l.last = some s →
        (l.finish lc e).sink = (if lc.threshold < s.voltage ∧ e.finalOk = true
          then l.sink ++ [{ stamp := lc.finalStamp e.now s, voltage := s.voltage }] else l.sink) ∧
        (l.finish lc e).reports = (if lc.threshold < s.voltage ∧ e.finalOk = false
          then l.reports + 1 else l.reports))) ∧
    (l.phase ≠ .terminating ∨ l.issue ≠ .free → l.finish lc e = l)

/-! ### Command programs -/

/-- 30_encoding R84 (a command line): the code is presented until it is accepted, by a ready block in that very step and
by no other (R74, R75); then the line is in progress, and no further line begins, until the boundary that shows the
response, which is heard once and ends the line: the next lines begin there, in order, up to a command, which is presented
(log entry 23), or a `reset`. The one other end of a line is the model's choice (log entry 23): at a boundary that drives a
reset the line in progress ends with no response (70_reset_and_hazards R231). -/
def Obligations.CommandLineWaitsForItsResponse : Prop :=
  (∀ (r q : Runner) (s t : State) (i : Instr), r.step s = .next (q, t) →
    (r.issue = .presented i → q.todo = r.todo ∧ q.heard = r.heard ∧
      (cmdReady s.fr = true → q.issue = .running i s.fr.pulses) ∧
      (cmdReady s.fr = false → q.issue = .presented i ∧ t.fr.port.cmdValid = true ∧
        t.fr.port.cmdOp = encode i)) ∧
    (∀ base, r.issue = .running i base → s.fr.respValid = false → q.todo = r.todo ∧ q.heard = r.heard ∧
      ((r.boundary s.fr).2.port.rst = false → q.issue = .running i base) ∧
      ((r.boundary s.fr).2.port.rst = true → q.issue = .free)) ∧
    (∀ base, r.issue = .running i base → s.fr.respValid = true →
      q.heard = r.heard ++ [responseTo s.fr i] ∧ q.Began r.todo)) ∧
  (∀ (c : Params) (m : Framer c) (r : Runner) (i : Instr), c.Legal → m.started = true → m.port.rst = false →
    m.fsm = .idle → m.respValid = false → r.issue = .presented i →
    ∃ t : Framer c, r.step ⟨c, m⟩ = .next ({ r with issue := .running i m.pulses }, ⟨c, t⟩) ∧ t.op = encode i)

/-! ### The reference cycle timing -/

/-- 70_reset_and_hazards R250: with a legal timing whose T_HIGH is at least 3 (R252, for the synchronizer), the
1 + T_LOW + T_HIGH cycles of a pulse slot do to the registers and lines exactly what one pulse-level step does. At the
begin edge of a SYNC slot with `cancel_i` = 1 the one cycle does instead what the cancelled pulse-level step does, and the
block is at the start of a slot again. A configuration or timing outside its legal range is refused (00_scope R8; for the
timing the model's choice, log entry 15). -/
def Obligations.PulseSlotRefinesOneStep : Prop :=
  (∀ (c : Params) (t : Timing) (m u : Framer c) (f1 f2 : Bit), c.Legal → t.Legal → 3 ≤ t.tHigh →
    m.started = true → m.port.rst = false → m.port.midPulse = false → m.port.readSample = false →
    m.port.plan = [] → m.fsm ≠ .idle → m.sclk = true → (m.fsm = .sync → m.port.cancel = false) →
    exec (decode m.op) ⟨c, m⟩ = .next ⟨c, u⟩ →
    ∃ g1 g2 : Bit, cycles t t.slotLength { fr := m, slot := 0, ff1 := f1, ff2 := f2 } =
      .next { fr := u, slot := 0, ff1 := g1, ff2 := g2 }) ∧
  (∀ (c : Params) (t : Timing) (m : Framer c) (f1 f2 : Bit), c.Legal → t.Legal → m.started = true →
    m.port.rst = false → m.port.readSample = false → m.fsm = .sync → m.port.cancel = true →
    ∃ u : Framer c, step ⟨c, m⟩ = .next ⟨c, u⟩ ∧ u.fsm = .idle ∧ u.respValid = true ∧ u.respStatus = .cancelled ∧
      u.sclk = m.sclk ∧ u.line = m.line ∧ u.pulses = m.pulses ∧
      cycles t 1 { fr := m, slot := 0, ff1 := f1, ff2 := f2 } =
        .next { fr := u, slot := 0, ff1 := readData m, ff2 := f1 }) ∧
  (∀ (c : Params) (t : Timing) (s : CycleState c), cycleStep t s = .refused .illegalConfig ↔ ¬ c.Legal ∨ ¬ t.Legal)
end

