-- ==== Sys2Proof/Laws/Host.lean ====
section
/-! SUPPORT. The host's layer: what each part of the loop's boundary changes, and everything a step of the joined system
or of a command program can do. -/

namespace Sys2Proof.Machine

variable {c : Params}

/-! ### Issuing a command -/

@[simp] theorem hears_free (m : Framer c) : Issue.free.hears m = none := rfl
@[simp] theorem hears_presented (m : Framer c) (i : Instr) : (Issue.presented i).hears m = none := rfl

/-- A response is heard only of the command in progress, in the cycle that shows it. -/
theorem hears_cases {m : Framer c} {s : Issue} {r : Response} (h : s.hears m = some r) :
    ∃ i base, s = .running i base ∧ m.respValid = true ∧ r = responseTo m i := by
  cases s with
  | free => cases h
  | presented i => cases h
  | running i base =>
    simp only [Issue.hears] at h
    split at h
    · next hv => exact ⟨i, base, rfl, hv, (Option.some.inj h).symm⟩
    · cases h

theorem hears_running {m : Framer c} (i : Instr) (base : Nat) (h : m.respValid = true) :
    (Issue.running i base).hears m = some (responseTo m i) := by simp [Issue.hears, h]

theorem hears_not_yet {m : Framer c} (i : Instr) (base : Nat) (h : m.respValid = false) :
    (Issue.running i base).hears m = none := by simp [Issue.hears, h]

/-- With `sample_valid_o` = 1 the sample taken is the committed one. -/
theorem takeSample_ok {m : Framer c} {i : Instr} (hb : bringsSample m i = true) (hs : m.started = true)
    (hv : m.sampleValid = true) : takeSample m i = some m.sample.toNat := by
  simp [takeSample, hb, hostReadSample, hs, hv]

/-! ### Records -/

/-- An attempt at a record: the sink grows or a failure is reported. -/
theorem append_eq (w : Bool) (r : SinkRecord) (l : Loop) :
    l.append w r = { l with
      sink := if w then l.sink ++ [r] else l.sink, reports := if w then l.reports else l.reports + 1 } := by
  cases w <;> rfl

/-- What emitting does: a record attempt exactly above the threshold, and nothing else. -/
theorem emit_eq (lc : LoopConfig) (stamp : Nat) (w : Bool) (v : Rat) (l : Loop) :
    l.emit lc stamp w v = { l with
      sink := if lc.threshold < v ∧ w = true then l.sink ++ [{ stamp := stamp, voltage := v }] else l.sink
      reports := if lc.threshold < v ∧ w = false then l.reports + 1 else l.reports } := by
  by_cases h : lc.threshold < v <;> cases w <;> simp [Loop.emit, LoopConfig.passes, append_eq, h]

/-! ### The parts of a boundary -/

theorem hear_none {lc : LoopConfig} {e : LoopInput} {m : Framer c} {l : Loop} (h : l.issue.hears m = none) :
    l.hear lc e m = l := by simp [Loop.hear, h]

/-- Presenting changes nothing but the command issued and the sleep. -/
theorem present_keeps (lc : LoopConfig) (l : Loop) :
    (l.present lc).phase = l.phase ∧ (l.present lc).booted = l.booted ∧ (l.present lc).last = l.last ∧
    (l.present lc).sink = l.sink ∧ (l.present lc).sinkOpen = l.sinkOpen ∧ (l.present lc).reports = l.reports := by
  unfold Loop.present
  repeat' split
  all_goals simp

/-- A command in progress stays. -/
theorem present_busy (lc : LoopConfig) {l : Loop} (h : l.issue ≠ .free) : l.present lc = l := by
  unfold Loop.present
  split
  · contradiction
  · rfl
  · rfl

/-- The end of termination leaves the trust and the last sample, and acts only in TERMINATING. -/
theorem finish_keeps (lc : LoopConfig) (e : LoopInput) (l : Loop) :
    (l.finish lc e).booted = l.booted ∧ (l.finish lc e).last = l.last ∧ (l.finish lc e).issue = l.issue := by
  unfold Loop.finish
  split
  · cases h : l.last <;> simp [emit_eq, h]
  · simp

theorem finish_else (lc : LoopConfig) (e : LoopInput) {l : Loop} (h : ¬ (l.phase = .terminating ∧ l.issue = .free)) :
    l.finish lc e = l := by simp [Loop.finish, h]

/-- A termination signal changes the phase alone. -/
theorem terminate_keeps (signal : Bool) (l : Loop) :
    (l.terminate signal).booted = l.booted ∧ (l.terminate signal).last = l.last ∧
    (l.terminate signal).issue = l.issue ∧ (l.terminate signal).sink = l.sink := by
  cases l with
  | mk phase _ _ _ _ _ _ _ _ _ => cases signal <;> cases phase <;> exact ⟨rfl, rfl, rfl, rfl⟩

@[simp] theorem terminate_false (l : Loop) : l.terminate false = l := rfl
@[simp] theorem reset_false (l : Loop) : l.reset false = l := rfl

/-! ### The joined system and the program's host -/

/-- The host of a block agrees with it on K, W and P. -/
@[simp] theorem forBlock_agrees (lc : LoopConfig) (c : Params) : (lc.forBlock c).Agrees c := rfl

/-- A host that agrees with the block already is that host. -/
theorem forBlock_of_agrees {lc : LoopConfig} {c : Params} (h : lc.Agrees c) : lc.forBlock c = lc := by
  subst h; rfl

@[simp] theorem forBlock_voltage (lc : LoopConfig) (c : Params) (raw : Nat) :
    (lc.forBlock c).voltage raw = toVoltageIn lc.float raw c.w lc.vref lc.offset := rfl

@[simp] theorem forBlock_threshold (lc : LoopConfig) (c : Params) : (lc.forBlock c).threshold = lc.threshold := rfl

/-- Everything a step of the system does. -/
theorem System_step_cases {lc : LoopConfig} {e : LoopInput} {x y : System} (h : x.step lc e = .next y) :
    let l := x.loop.boundary (lc.forBlock x.st.cfg) e x.st.fr
    let driven : Framer x.st.cfg := { x.st.fr with port := l.ports e x.st.fr (x.loop.reads x.st.fr) }
    ∃ t, step ⟨x.st.cfg, driven⟩ = .next t ∧ y = ⟨{ l with issue := l.issue.afterAcceptance driven }, t⟩ := by
  intro l driven
  unfold System.step at h
  simp only at h
  split at h
  · next t ht => exact ⟨t, ht, (Host.Outcome.next.inj h).symm⟩
  · cases h
  · cases h

/-- Everything a step under a program does. -/
theorem Runner_step_cases {r q : Runner} {s t : State} (h : r.step s = .next (q, t)) :
    step ⟨s.cfg, (r.boundary s.fr).2⟩ = .next t ∧
    q = { (r.boundary s.fr).1 with
      issue := (r.boundary s.fr).1.issue.afterAcceptance (r.boundary s.fr).2 } := by
  unfold Runner.step at h
  simp only at h
  split at h
  · next t' ht =>
    have e := Prod.mk.inj (Host.Outcome.next.inj h)
    exact ⟨by rw [← e.2]; exact ht, e.1.symm⟩
  · cases h
  · cases h

/-- A directive sets ports or names draws; it changes no register. -/
theorem apply_keeps (d : Directive) (m : Framer c) :
    ∃ line port, d.apply m = { m with line := line, port := port } := by
  cases d <;> exact ⟨_, _, rfl⟩

/-- Nor do all those due at a boundary. -/
theorem due_keeps (r : Runner) (m : Framer c) : ∃ line port, (r.due m).2 = { m with line := line, port := port } := by
  have key : ∀ (ds : List (Nat × Directive)) (m : Framer c),
      ∃ line port, ds.foldl (fun acc d => d.2.apply acc) m = { m with line := line, port := port } := by
    intro ds
    induction ds with
    | nil => exact fun m => ⟨_, _, rfl⟩
    | cons d ds ih =>
      intro m
      obtain ⟨l, p, h⟩ := apply_keeps d.2 m
      obtain ⟨l', p', h'⟩ := ih { m with line := l, port := p }
      exact ⟨l', p', by rw [List.foldl_cons, h, h']⟩
  unfold Runner.due
  split
  · exact key _ m
  · exact ⟨_, _, rfl⟩

/-- The host that waits begins no line. -/
theorem begins_busy {r : Runner} (m : Framer c) (h : r.issue ≠ .free) : r.begins m = (r, m) := by
  unfold Runner.begins
  split
  · contradiction
  · rfl
  · rfl

/-- The boundary of a host whose code is presented: it drives the command port and waits. -/
theorem boundary_presented {r : Runner} (m : Framer c) {i : Instr} (h : r.issue = .presented i) :
    r.boundary m = (r, { m with port := { Issue.drive m.port (.presented i) with readSample := false, plan := [] } }) := by
  have hd : r.due m = (r, m) := by simp [Runner.due, h, Issue.pulsesSince]
  have hh : r.hear m = r := by simp [Runner.hear, h]
  have hr : ({ r with issue := .presented i } : Runner) = r := by rw [← h]
  simp only [Runner.boundary, hd, hh, begins_busy m (by simp [h] : r.issue ≠ .free), h, Issue.afterReset, hr]

/-- A directive before lines that begin, if it is no `reset`, begins with them. -/
theorem Began_cons {d : Directive} (hd : ∀ mid, d ≠ .reset mid) {ls : List ProgramLine} {r : Runner}
    (h : r.Began ls) : r.Began (.directive d :: ls) := by
  obtain ⟨ds, ⟨h2, h3, h4⟩ | ⟨i, h2, h3, h4⟩⟩ := h
  · refine ⟨d :: ds, .inl ⟨h2, by rw [h3]; rfl, h4.imp_right fun ⟨mid, h⟩ => ⟨mid, ?_⟩⟩⟩
    rw [List.getLast?_cons, h]; rfl
  · refine ⟨d :: ds, .inr ⟨i, h2, by rw [h3]; rfl, fun mid hm => ?_⟩⟩
    exact (List.mem_cons.mp hm).elim (fun h => hd mid h.symm) (h4 mid)

/-- Everything beginning lines does: it hears nothing, and leaves the host as `Runner.Began` says. -/
theorem beginLines_cases (heard : List Response) (ls : List ProgramLine) (m : Framer c) :
    (beginLines heard ls m).1.heard = heard ∧ (beginLines heard ls m).1.Began ls := by
  induction ls generalizing m with
  | nil => exact ⟨rfl, [], .inl ⟨rfl, rfl, .inl rfl⟩⟩
  | cons a ls ih =>
    match a with
    | .command i ds => exact ⟨rfl, [], .inr ⟨i, rfl, rfl, by simp⟩⟩
    | .directive (.reset mid) => exact ⟨rfl, [.reset mid], .inl ⟨rfl, rfl, .inr ⟨mid, rfl⟩⟩⟩
    | .directive (.cancel level) => exact ⟨(ih _).1, Began_cons (by simp) (ih _).2⟩
    | .directive (.stream bits) => exact ⟨(ih _).1, Began_cons (by simp) (ih _).2⟩

/-- Nor does it change a register. -/
theorem beginLines_keeps (heard : List Response) (ls : List ProgramLine) (m : Framer c) :
    ∃ line port, (beginLines heard ls m).2 = { m with line := line, port := port } := by
  induction ls generalizing m with
  | nil => exact ⟨_, _, rfl⟩
  | cons a ls ih =>
    match a with
    | .command i ds => exact ⟨_, _, rfl⟩
    | .directive (.reset mid) => exact ⟨_, _, rfl⟩
    | .directive (.cancel level) => exact ih _
    | .directive (.stream bits) => obtain ⟨l, p, h⟩ := ih ((Directive.stream bits).apply m); exact ⟨l, p, h⟩

/-- Beginning lines hears nothing. -/
theorem begins_heard (r : Runner) (m : Framer c) : (r.begins m).1.heard = r.heard := by
  unfold Runner.begins
  split
  · exact (beginLines_cases r.heard r.todo m).1
  · rfl
  · rfl

end Sys2Proof.Machine
end

