-- ==== Sys2Proof/Laws/PerInstr.lean ====
section
/-! SUPPORT. The laws stated per command: about a command as syntax. -/

namespace Sys2Proof.Laws

/-- The reserved commands are exactly those of the codes 0b000 and 0b111 (30_encoding R72). -/
def ReservedCode.Statement (i : Instr) : Prop :=
  i.reserved = true ↔ encode i = 0b000#3 ∨ encode i = 0b111#3

theorem ReservedCode.rsvd0 : ReservedCode.Statement .rsvd0 := by unfold Statement; decide
theorem ReservedCode.pulse : ReservedCode.Statement .pulse := by unfold Statement; decide
theorem ReservedCode.flush : ReservedCode.Statement .flush := by unfold Statement; decide
theorem ReservedCode.sync : ReservedCode.Statement .sync := by unfold Statement; decide
theorem ReservedCode.read : ReservedCode.Statement .read := by unfold Statement; decide
theorem ReservedCode.acquire : ReservedCode.Statement .acquire := by unfold Statement; decide
theorem ReservedCode.startup : ReservedCode.Statement .startup := by unfold Statement; decide
theorem ReservedCode.rsvd7 : ReservedCode.Statement .rsvd7 := by unfold Statement; decide

/-- Every mnemonic is one command (30_encoding R85): reading it back gives the command. -/
def MnemonicReads.Statement (i : Instr) : Prop := ofMnemonic i.mnemonic = some i

theorem MnemonicReads.rsvd0 : MnemonicReads.Statement .rsvd0 := by unfold Statement; decide
theorem MnemonicReads.pulse : MnemonicReads.Statement .pulse := by unfold Statement; decide
theorem MnemonicReads.flush : MnemonicReads.Statement .flush := by unfold Statement; decide
theorem MnemonicReads.sync : MnemonicReads.Statement .sync := by unfold Statement; decide
theorem MnemonicReads.read : MnemonicReads.Statement .read := by unfold Statement; decide
theorem MnemonicReads.acquire : MnemonicReads.Statement .acquire := by unfold Statement; decide
theorem MnemonicReads.startup : MnemonicReads.Statement .startup := by unfold Statement; decide
theorem MnemonicReads.rsvd7 : MnemonicReads.Statement .rsvd7 := by unfold Statement; decide

end Sys2Proof.Laws
end

