-- ==== Sys2Proof/Tests/Slice0.lean ====
section
/-! SUPPORT. Tests: what WellFormed refuses, the words of the opcode map, single steps with the values of
95_test_vectors, and for every statement with hypotheses a concrete machine that meets them (`test_witness_...`). -/

namespace Sys2Proof.Tests

open Sys2Proof Sys2Proof.Machine

/-! ### Small machines -/

/-- A small legal configuration: K = 2, W = 2, P = 16. -/
def tiny : Params := { k := 2, w := 2, p := 16 }

/-- A driven converter whose next draws are `bits`. -/
def drawing (bits : List Bit) : Converter := { driven := true, out := true, named := bits, pos := 0 }

/-- The reference block right after reset, on the stream `bits`. -/
def fresh (bits : List Bit) : Framer Params.reference := Framer.reset Params.reference (drawing bits) HostPort.quiet

/-- The small block right after reset, on the stream `bits`. -/
def small (bits : List Bit) : Framer tiny := Framer.reset tiny (drawing bits) HostPort.quiet

/-- The small block in phase `f` of the command of code `op`, on the stream `bits`. -/
def inPhase (f : Phase) (op : Code) (bits : List Bit) : Framer tiny := { small bits with fsm := f, op := op }

/-- The same block with `cancel_i` = 1. -/
def cancelling (f : Phase) (op : Code) : Framer tiny :=
  { inPhase f op [] with port := { HostPort.quiet with cancel := true } }

/-- The small block with a command presented. -/
def offered (op : Code) : Framer tiny :=
  { small [] with port := { HostPort.quiet with cmdValid := true, cmdOp := op } }

/-- The small block in phase `f` with `rst_i` = 1, reset where `mid` says. -/
def resetting (f : Phase) (mid : Bool) : Framer tiny :=
  { inPhase f 0b011#3 [false] with port := { HostPort.quiet with rst := true, midPulse := mid } }

/-- The machine a step leads to, if it leads to one. -/
def after (o : Host.Outcome State Fault Refusal) : Option State :=
  match o with
  | .next t => some t
  | .fault _ => none
  | .refused _ => none

/-! ### WellFormed: one ill-formed configuration for each check (00_scope R6, R7, R8) -/

theorem test_illegal_k : ¬ ({ k := 0, w := 12, p := 20 } : Params).Legal := by decide
theorem test_illegal_w : ¬ ({ k := 4, w := 0, p := 20 } : Params).Legal := by decide
theorem test_illegal_p_below_16 : ¬ ({ k := 4, w := 12, p := 15 } : Params).Legal := by decide
/-- 95_test_vectors 2.2: with K = 10 the least legal P is 20; with K = 4, P = 8 is refused. -/
theorem test_illegal_p_below_2k :
    ¬ ({ k := 10, w := 12, p := 19 } : Params).Legal ∧ ({ k := 10, w := 12, p := 20 } : Params).Legal ∧
    ¬ ({ k := 4, w := 12, p := 8 } : Params).Legal := by decide
theorem test_reference_legal : Params.reference.Legal := by decide
theorem test_every_command_wellFormed : ∀ i ∈ Instr.all, i.wellFormed = true := by decide
theorem test_illegal_refused :
    step ⟨{ k := 4, w := 12, p := 8 }, Framer.reset _ (drawing []) HostPort.quiet⟩ = .refused .illegalConfig := rfl

/-! ### Decoding: each row's code written out from 30_encoding R71 -/

theorem test_decode_rsvd0 : decode 0b000#3 = .rsvd0 := by decide
theorem test_decode_pulse : decode 0b001#3 = .pulse := by decide
theorem test_decode_flush : decode 0b010#3 = .flush := by decide
theorem test_decode_sync : decode 0b011#3 = .sync := by decide
theorem test_decode_read : decode 0b100#3 = .read := by decide
theorem test_decode_acquire : decode 0b101#3 = .acquire := by decide
theorem test_decode_startup : decode 0b110#3 = .startup := by decide
theorem test_decode_rsvd7 : decode 0b111#3 = .rsvd7 := by decide
theorem test_no_ninth_command : decodeTableWord 8 0b1000 = none ∧ decodeTableWord 3 0b101 = some .acquire := by decide
/-- 95_test_vectors P1: "Encodings in order: 110, 101". -/
theorem test_program_codes :
    ofMnemonic "STARTUP" = some .startup ∧ encode .startup = 0b110#3 ∧
    ofMnemonic "ACQUIRE" = some .acquire ∧ encode .acquire = 0b101#3 ∧ ofMnemonic "NOP" = none := by decide

/-! ### Reset and the ports -/

/-- 95_test_vectors Z4, the first cycle after reset. -/
theorem test_outputs_after_reset :
    (outputs State.reset.fr).cmdReady = true ∧ (outputs State.reset.fr).busy = false ∧
    (outputs State.reset.fr).sclk = true ∧ (outputs State.reset.fr).hold = false ∧
    (outputs State.reset.fr).respValid = false ∧ (outputs State.reset.fr).respBit = true := by decide

/-- 95_test_vectors Z5: a command presented with `rst_i` = 1 is not accepted, and stays presented. -/
theorem test_reset_does_not_accept :
    (after (step ⟨tiny, { offered 0b011#3 with
      port := { HostPort.quiet with rst := true, cmdValid := true, cmdOp := 0b011#3 } }⟩)).map
      (fun t => (t.fr.fsm, t.fr.port.cmdValid, t.fr.port.cmdOp)) = some (.idle, true, 0b011#3) := by decide

/-- Each opcode-table word, placed, runs as the first command: its code reaches `op`. -/
theorem test_placed_words :
    ∀ i ∈ Instr.all, (after (step (State.reset.withFetchWord 8 (encode i).toNat))).map (fun t => t.fr.op) =
      some (encode i) := by decide

/-! ### Single steps (95_test_vectors, section 2) -/

/-- U1: PULSE on the draw 0. -/
theorem test_pulse_u1 :
    (after (exec .pulse ⟨Params.reference, { fresh [false] with fsm := .pulse }⟩)).map
      (fun t => (t.fr.lastBit, t.fr.synced, t.fr.respValid, t.fr.pulses)) = some (false, false, true, 1) := by decide

/-- U3: PULSE on an undriven line reads 1, whatever the converter's draw. -/
theorem test_pulse_u3 :
    (after (exec .pulse ⟨Params.reference, { fresh [false] with
      fsm := .pulse, line := { drawing [false] with driven := false } }⟩)).map (fun t => t.fr.lastBit) =
      some true := by decide

/-- F1's last pulse: `cnt` 20, OK, no draw reaches a register. -/
theorem test_flush_f1_last :
    (after (exec .flush ⟨Params.reference, { fresh [true] with
      fsm := .flush, op := 0b010#3, cnt := 19, zrun := 4, lastBit := false }⟩)).map
      (fun t => (t.fr.fsm, t.fr.cnt.toNat, t.fr.lastBit, t.fr.respValid)) = some (.idle, 20, false, true) := by decide

/-- F2's first pulse: `cancel_i` is ignored. -/
theorem test_flush_f2_cancel_ignored :
    (after (exec .flush ⟨tiny, cancelling .flush 0b010#3⟩)).map (fun t => (t.fr.fsm, t.fr.cnt.toNat)) =
      some (.flush, 1) := by decide

/-- S1's last pulse: the fourth zero completes the marker. -/
theorem test_sync_s1_last :
    (after (exec .sync ⟨Params.reference, { fresh [false] with fsm := .sync, op := 0b011#3, zrun := 3 }⟩)).map
      (fun t => (t.fr.fsm, t.fr.zrun.toNat, t.fr.synced, t.fr.lastBit, t.fr.respStatus)) =
      some (.idle, 4, true, false, .ok) := by decide

/-- S4's fourth pulse: a 1 after three zeros discards all progress. -/
theorem test_sync_s4_restart :
    (after (exec .sync ⟨Params.reference, { fresh [true] with fsm := .sync, op := 0b011#3, zrun := 3 }⟩)).map
      (fun t => (t.fr.fsm, t.fr.zrun.toNat, t.fr.respValid)) = some (.sync, 0, false) := by decide

/-- D5's last pulse: `shreg` 1326, then 0, gives the sample 2652. -/
theorem test_read_d5_last :
    (after (exec .read ⟨Params.reference, { fresh [false] with
      fsm := .read, op := 0b100#3, cnt := 11, shreg := 1326 }⟩)).map
      (fun t => (t.fr.sample.toNat, t.fr.shreg.toNat, t.fr.sampleValid, t.fr.cnt.toNat)) =
      some (2652, 2652, true, 12) := by decide

/-- D8: W = 1, the sample is the bit read. -/
theorem test_read_d8 :
    (after (exec .read ⟨{ k := 4, w := 1, p := 20 }, { Framer.reset _ (drawing [true]) HostPort.quiet with
      fsm := .read }⟩)).map (fun t => (t.fr.sample.toNat, t.fr.respValid)) = some (1, true) := by decide

/-- A2's fourth pulse: the marker is complete and the READ phase begins in the same step, with no response. -/
theorem test_acquire_a2_fourth :
    (after (exec .acquire ⟨Params.reference, { fresh [false] with fsm := .sync, op := 0b101#3, zrun := 3 }⟩)).map
      (fun t => (t.fr.fsm, t.fr.cnt.toNat, t.fr.shreg.toNat, t.fr.synced, t.fr.respValid)) =
      some (.read, 0, 0, true, false) := by decide

/-- A3's cancel: no pulse, CANCELLED. -/
theorem test_acquire_a3_cancel :
    (after (exec .acquire ⟨tiny, cancelling .sync 0b101#3⟩)).map
      (fun t => (t.fr.fsm, t.fr.respStatus, t.fr.pulses, t.fr.sampleValid)) =
      some (.idle, .cancelled, 0, false) := by decide

/-- T1's fourth pulse: the marker is complete and the FLUSH phase begins in the same step. -/
theorem test_startup_t1_fourth :
    (after (exec .startup ⟨Params.reference, { fresh [false] with fsm := .sync, op := 0b110#3, zrun := 3 }⟩)).map
      (fun t => (t.fr.fsm, t.fr.cnt.toNat, t.fr.zrun.toNat, t.fr.respValid)) = some (.flush, 0, 4, false) := by decide

/-- T5's last pulse: the sample of before is kept. -/
theorem test_startup_t5_last :
    (after (exec .startup ⟨Params.reference, { fresh [true] with
      fsm := .flush, op := 0b110#3, cnt := 19, sample := 2652, sampleValid := true }⟩)).map
      (fun t => (t.fr.fsm, t.fr.sample.toNat, t.fr.sampleValid, t.fr.respStatus)) =
      some (.idle, 2652, true, .ok) := by decide

/-- X1. -/
theorem test_rsvd0_x1 :
    (after (exec .rsvd0 ⟨tiny, small [false]⟩)).map (fun t => (t.fr.op, t.fr.respStatus, t.fr.pulses)) =
      some (0b000#3, .illegal, 0) := by decide

/-- X3: `synced` stays 1 through RSVD7. -/
theorem test_rsvd7_x3 :
    (after (exec .rsvd7 ⟨tiny, { small [false] with synced := true }⟩)).map
      (fun t => (t.fr.op, t.fr.respStatus, t.fr.synced, t.fr.fsm)) = some (0b111#3, .illegal, true, .idle) := by decide

/-! ### The host's software and the cycle timing -/

/-- E3, H11, and E5's W = 12: the voltages of 95_test_vectors. -/
theorem test_voltages :
    toVoltage 11 4 3300 0 = 9075 / 4 ∧ toVoltage 15 4 3300 0 = 12375 / 4 ∧
    toVoltage 248 12 3300 (25 / 128) = 200 := by
  refine ⟨?_, ?_, ?_⟩ <;> norm_num [toVoltage]

/-- A quiet boundary at time 7, at which every write succeeds. -/
def atSeven : LoopInput :=
  { now := 7, writeOk := true, finalOk := true, terminate := false, reset := false, midPulse := false }

/-- H15: no sample, no final record, and the sink is closed. -/
theorem test_no_final_record (lc : LoopConfig) :
    (((Loop.start true).terminate true).finish lc atSeven).sink = [] ∧
    (((Loop.start true).terminate true).finish lc atSeven).sinkOpen = false := ⟨rfl, rfl⟩

/-- R182: the raw value itself is promoted to the format, here one that keeps multiples of 16: 11 becomes 0. -/
theorem test_voltage_promotes_raw :
    toVoltageIn (fun q => 16 * (⌊q / 16⌋ : Rat)) 11 4 3200 0 = 0 ∧ toVoltageIn id 11 4 3300 0 = 9075 / 4 := by
  refine ⟨?_, ?_⟩ <;> norm_num [toVoltageIn]

/-- R186: the loop presents STARTUP first, and the ready block accepts it. -/
theorem test_loop_issues_startup (lc : LoopConfig) :
    (match System.reset.step lc atSeven with
      | .next y => some (y.loop.issue, y.st.fr.op, y.st.fr.fsm)
      | .fault _ => none
      | .refused _ => none) = some (.running .startup 0, 0b110#3, .sync) := rfl

/-- S11: `@pulse 4: cancel 1` takes effect at the boundary after the fourth pulse, which already shows the OK response. -/
theorem test_pulse_directive_s11 :
    let r : Runner := { Runner.load [] with issue := .running .sync 0, indented := [(4, .cancel true)] }
    let m : Framer tiny := { small [] with op := 0b011#3, pulses := 4, respValid := true, lastBit := false }
    ((r.boundary m).2.port.cancel, (r.boundary m).1.done, (r.boundary m).1.heard) =
      (true, true, [{ command := .sync, status := .ok, bit := false, sample := none }]) := by decide

/-- Section 4: T_LOW = 1, T_HIGH = 3 gives S = 5, and the latencies of the table. -/
theorem test_latencies :
    latency { tLow := 1, tHigh := 3 } Params.reference 4 .flush = 100 ∧
    latency { tLow := 1, tHigh := 3 } Params.reference 4 .acquire = 80 ∧
    latency { tLow := 1, tHigh := 3 } Params.reference 4 .startup = 120 := by decide

/-- Section 4, c1: the begin edge of a PULSE slot drives the clock line low. -/
theorem test_cycle_c1 :
    (match cycleStep { tLow := 1, tHigh := 3 }
        { fr := inPhase .pulse 0b001#3 [false], slot := 0, ff1 := true, ff2 := true } with
      | .next s => some (s.fr.sclk, s.slot)
      | .fault _ => none
      | .refused _ => none) = some (false, 1) := by decide

/-- 00_scope R8 in the cycle layer, and the ends of the range of 00_scope R11. -/
theorem test_cycle_refuses :
    cycleStep { tLow := 1, tHigh := 3 }
        { fr := Framer.reset ⟨0, 12, 8⟩ (drawing []) HostPort.quiet, slot := 0, ff1 := true, ff2 := true } =
      .refused .illegalConfig ∧
    cycleStep { tLow := 0, tHigh := 3 } { fr := small [], slot := 0, ff1 := true, ff2 := true } =
      .refused .illegalConfig ∧
    ({ tLow := 1, tHigh := 1 } : Timing).Legal ∧ ¬ ({ tLow := 1, tHigh := 0 } : Timing).Legal :=
  ⟨rfl, rfl, by decide, by decide⟩

/-- Section 4, c5: the end edge reads the synchronized line and responds. -/
theorem test_cycle_c5 :
    (match cycleStep { tLow := 1, tHigh := 3 }
        { fr := inPhase .pulse 0b001#3 [], slot := 4, ff1 := true, ff2 := false } with
      | .next s => some (s.fr.lastBit, s.fr.respValid, s.fr.fsm, s.slot)
      | .fault _ => none
      | .refused _ => none) = some (false, true, .idle, 0) := by decide

/-! ### Witnesses: a machine that meets the hypotheses of each statement, one for each clause -/

theorem calm_of_quiet {c : Params} {m : Framer c} (hl : c.Legal) (hs : m.started = true)
    (hp : m.port.rst = false ∧ m.port.readSample = false ∧ m.port.plan = []) : Calm m :=
  { legal := hl, started := hs, noReset := ⟨hp.1, by simp [hp.2.2]⟩, noRead := ⟨hp.2.1, by simp [hp.2.2]⟩ }

theorem noCancel_of_quiet {h : HostPort} (hc : h.cancel = false) (hp : h.plan = []) : NoCancel h :=
  ⟨hc, by simp [hp]⟩

/-- The invariant's witness is a busy machine: a FLUSH phase whose first pulse is due. -/
theorem flushing_regsInv : RegsInv (inPhase .flush 0b010#3 [true]) := by
  refine ⟨rfl, rfl, by decide, by decide, by decide, by decide, by decide, fun _ => rfl, by decide, by decide, ?_⟩
  show (_ ∨ _) ∧ _
  decide

theorem test_witness_FirstCycleAfterResetAccepts :
    (HostPort.quiet.rst = false) ∧ ({ HostPort.quiet with cmdValid := true } : HostPort).rst = false ∧
    ({ HostPort.quiet with cmdValid := true } : HostPort).cmdValid = true := by decide

theorem test_witness_ResetTakesEveryResetValue :
    tiny.Legal ∧ badRead (resetting .sync true) = false ∧ (resetting .sync true).port.rst = true := by decide

/-- The clause on a presented command. -/
theorem test_witness_ResetTakesEveryResetValue_presented :
    let m : Framer tiny := { small [] with
      port := { HostPort.quiet with rst := true, cmdValid := true, cmdOp := 0b011#3 } }
    badRead m = false ∧ m.port.rst = true ∧ m.port.cmdValid = true := by decide

theorem test_witness_ResetShiftsConverterByZeroOrOne :
    tiny.Legal ∧
    (∀ f ∈ [Phase.sync, .idle], ∀ mid ∈ [true, false],
      badRead (resetting f mid) = false ∧ (resetting f mid).port.rst = true ∧ (resetting f mid).started = true ∧
      (resetting f mid).port.midPulse = mid ∧ (resetting f mid).fsm = f) := by decide

theorem test_witness_NoStepBeforeFirstReset :
    tiny.Legal ∧ ({ small [] with started := false } : Framer tiny).port.rst = false ∧
    (∀ r ∈ [true, false],
      let m : Framer tiny := { small [] with started := false, port := { HostPort.quiet with readSample := r } };
      m.started = false ∧ m.port.rst = false ∧ m.port.readSample = r) := by decide

/-- The clause on a step. -/
theorem test_witness_NoStepBeforeFirstReset_step : ∃ t, step ⟨tiny, small []⟩ = .next t := ⟨_, rfl⟩

/-- One configuration for each bound, and the converse. -/
theorem test_witness_IllegalConfigurationIsRefused :
    (∀ c ∈ ([⟨0, 12, 20⟩, ⟨4, 0, 20⟩, ⟨4, 12, 15⟩, ⟨10, 12, 19⟩] : List Params),
      c.k < 1 ∨ c.w < 1 ∨ c.p < 16 ∨ c.p < 2 * c.k) ∧
    step ⟨⟨10, 12, 19⟩, Framer.reset _ (drawing []) HostPort.quiet⟩ = .refused .illegalConfig := ⟨by decide, rfl⟩

theorem test_witness_InvalidSampleReadFaults :
    let m : Framer tiny := { small [] with port := { HostPort.quiet with readSample := true } }
    tiny.Legal ∧ m.sampleValid = false ∧ m.port.readSample = true := by decide

/-- 30_encoding R80, a block with each status; and two ports with one level of `rst_i`. -/
theorem test_witness_OutputsShowTheRegisters :
    (small []).respStatus = .ok ∧ ({ small [] with respStatus := .cancelled } : Framer tiny).respStatus = .cancelled ∧
    ({ small [] with respStatus := .illegal } : Framer tiny).respStatus = .illegal ∧
    (offered 0b001#3).port.rst = (small []).port.rst := ⟨rfl, rfl, rfl, rfl⟩

theorem test_witness_ValidSampleReadHasNoSideEffect :
    let m : Framer tiny := { small [] with
      sampleValid := true, sample := 3, port := { HostPort.quiet with readSample := true } }
    m.port.readSample = true ∧ ∃ t, step ⟨tiny, m⟩ = .next ⟨tiny, t⟩ := ⟨rfl, _, rfl⟩

/-- The clause on a ready block. -/
theorem test_witness_StepRunsTheDecodedCommand_ready :
    let m := offered 0b111#3
    tiny.Legal ∧ badRead m = false ∧ m.port.rst = false ∧ m.started = true ∧ m.fsm = .idle ∧ m.respValid = false ∧
      m.port.cmdValid = true := by decide

/-- The clause on a busy block. -/
theorem test_witness_StepRunsTheDecodedCommand_busy :
    let m := inPhase .read 0b100#3 [true]
    tiny.Legal ∧ badRead m = false ∧ m.port.rst = false ∧ m.started = true ∧ m.fsm ≠ .idle := by decide

/-- The least and the greatest code. -/
theorem test_witness_PlacedWordRunsNext :
    State.reset.cfg.Legal ∧ decodeTableWord 8 0 = some .rsvd0 ∧ decodeTableWord 8 7 = some .rsvd7 := by decide

/-- Both ways in which an IDLE block accepts nothing. -/
theorem test_witness_IdleBlockKeepsItsState :
    tiny.Legal ∧ badRead (small []) = false ∧ (small []).port.rst = false ∧ (small []).started = true ∧
    (small []).fsm = .idle ∧ (small []).port.cmdValid = false ∧
    (let m : Framer tiny := { offered 0b001#3 with respValid := true };
      badRead m = false ∧ m.port.rst = false ∧ m.started = true ∧ m.fsm = .idle ∧ m.respValid = true) := by decide

theorem test_witness_UnreadyBlockIgnoresCommandPort :
    cmdReady (inPhase .pulse 0b001#3 [true]) = false ∧
    ∃ t, step ⟨tiny, inPhase .pulse 0b001#3 [true]⟩ = .next ⟨tiny, t⟩ := ⟨by decide, _, rfl⟩

/-- A busy block, a block showing a response, and a block in reset, each with a command presented. -/
theorem test_witness_UnacceptedCommandStaysPresented :
    (let m : Framer tiny := { offered 0b001#3 with fsm := .flush, op := 0b010#3 };
      m.fsm ≠ .idle ∧ m.port.cmdValid = true ∧ ∃ t, step ⟨tiny, m⟩ = .next ⟨tiny, t⟩) ∧
    (let m : Framer tiny := { offered 0b001#3 with respValid := true };
      m.respValid = true ∧ m.port.cmdValid = true ∧ ∃ t, step ⟨tiny, m⟩ = .next ⟨tiny, t⟩) ∧
    (let m : Framer tiny := { small [] with
        port := { HostPort.quiet with rst := true, cmdValid := true, cmdOp := 0b001#3 } };
      m.port.rst = true ∧ m.port.cmdValid = true ∧ ∃ t, step ⟨tiny, m⟩ = .next ⟨tiny, t⟩) :=
  ⟨⟨by decide, rfl, _, rfl⟩, ⟨rfl, rfl, _, rfl⟩, ⟨rfl, rfl, _, rfl⟩⟩

theorem test_witness_ReservedCodeIsAnsweredIllegal : (small []).fsm = .idle := rfl

theorem test_witness_PulseReadsOneBit :
    (small [false]).fsm = .idle ∧ (inPhase .pulse 0b001#3 [false]).fsm = .pulse ∧
    (inPhase .pulse 0b001#3 [false]).sclk = true := by decide

/-- The last pulse but one and the last pulse of the burst. -/
theorem test_witness_FlushCountsUnreadPulses :
    (small []).fsm = .idle ∧
    (∀ n ∈ [14#5, 15#5],
      let m : Framer tiny := { inPhase .flush 0b010#3 [true] with cnt := n.setWidth _ };
      m.fsm = .flush ∧ m.sclk = true ∧ (m.cnt.toNat + 1 < tiny.p ↔ n = 14#5) ∧
      (m.cnt.toNat + 1 = tiny.p ↔ n = 15#5)) := by decide

/-- The clauses of SYNC: entry, cancel, a 1, a zero short of the marker, and the zero that completes it. -/
theorem test_witness_SyncSearchesForTheMarker :
    (small []).fsm = .idle ∧
    ((cancelling .sync 0b011#3).fsm = .sync ∧ (cancelling .sync 0b011#3).port.cancel = true) ∧
    (let m := inPhase .sync 0b011#3 [true];
      m.fsm = .sync ∧ m.port.cancel = false ∧ m.sclk = true ∧ 1 ≤ tiny.k ∧ m.line.shift.level = true) ∧
    (let m := inPhase .sync 0b011#3 [false];
      m.fsm = .sync ∧ m.port.cancel = false ∧ m.sclk = true ∧ m.line.shift.level = false ∧
      m.zrun.toNat + 1 < tiny.k) ∧
    (let m : Framer tiny := { inPhase .sync 0b011#3 [false] with zrun := 1 };
      m.fsm = .sync ∧ m.port.cancel = false ∧ m.sclk = true ∧ m.line.shift.level = false ∧
      m.zrun.toNat + 1 = tiny.k) := by decide

/-- The clauses of READ: entry, the pulse before the last, and the last. -/
theorem test_witness_ReadShiftsInAndCommits :
    (small []).fsm = .idle ∧
    (let m := inPhase .read 0b100#3 [true];
      m.fsm = .read ∧ m.sclk = true ∧ m.cnt.toNat + 1 < tiny.w) ∧
    (let m : Framer tiny := { inPhase .read 0b100#3 [true] with cnt := 1 };
      m.fsm = .read ∧ m.sclk = true ∧ m.cnt.toNat + 1 = tiny.w) := by decide

/-- The clauses of ACQUIRE: entry, cancel, the completing zero, a 1, a zero short of the marker, and the READ phase. -/
theorem test_witness_AcquireSynchronizesThenReads :
    (small []).fsm = .idle ∧
    ((cancelling .sync 0b101#3).fsm = .sync ∧ (cancelling .sync 0b101#3).port.cancel = true) ∧
    (let m : Framer tiny := { inPhase .sync 0b101#3 [false] with zrun := 1 };
      m.fsm = .sync ∧ m.port.cancel = false ∧ m.sclk = true ∧ m.line.shift.level = false ∧
      m.zrun.toNat + 1 = tiny.k) ∧
    (let m : Framer tiny := { inPhase .sync 0b101#3 [true] with zrun := 1 };
      m.port.cancel = false ∧ m.sclk = true ∧ m.zrun.toNat < tiny.k ∧ m.line.shift.level = true) ∧
    (let m := inPhase .sync 0b101#3 [false];
      m.port.cancel = false ∧ m.sclk = true ∧ m.zrun.toNat < tiny.k ∧ m.zrun.toNat + 1 < tiny.k) ∧
    (let m : Framer tiny := { inPhase .read 0b101#3 [true] with cnt := 1 };
      m.fsm = .read ∧ m.sclk = true ∧ m.cnt.toNat + 1 = tiny.w) := by decide

/-- The clauses of STARTUP, likewise. -/
theorem test_witness_StartupSynchronizesThenFlushes :
    (small []).fsm = .idle ∧
    ((cancelling .sync 0b110#3).fsm = .sync ∧ (cancelling .sync 0b110#3).port.cancel = true) ∧
    (let m : Framer tiny := { inPhase .sync 0b110#3 [false] with zrun := 1 };
      m.fsm = .sync ∧ m.port.cancel = false ∧ m.sclk = true ∧ m.line.shift.level = false ∧
      m.zrun.toNat + 1 = tiny.k) ∧
    (let m : Framer tiny := { inPhase .sync 0b110#3 [true] with zrun := 1 };
      m.port.cancel = false ∧ m.sclk = true ∧ m.zrun.toNat < tiny.k ∧ m.line.shift.level = true) ∧
    (let m := inPhase .sync 0b110#3 [false];
      m.port.cancel = false ∧ m.sclk = true ∧ m.zrun.toNat < tiny.k ∧ m.zrun.toNat + 1 < tiny.k) ∧
    (let m : Framer tiny := { inPhase .flush 0b110#3 [true] with cnt := 15 };
      m.fsm = .flush ∧ m.sclk = true ∧ m.cnt.toNat + 1 = tiny.p) := by decide

theorem test_witness_CancelEndsASyncPhase :
    (cancelling .sync 0b011#3).fsm = .sync ∧ (cancelling .sync 0b011#3).port.cancel = true ∧
    Instr.sync.startsWithSync = true := by decide

/-- An idle block and a busy one. -/
theorem test_witness_CancelLeavesNoTraceOutsideSync :
    ((small []).fsm ≠ .sync ∧ ∃ t, step ⟨tiny, small []⟩ = .next ⟨tiny, t⟩) ∧
    ((inPhase .read 0b100#3 [true]).fsm ≠ .sync ∧
      ∃ t, step ⟨tiny, inPhase .read 0b100#3 [true]⟩ = .next ⟨tiny, t⟩) :=
  ⟨⟨by decide, _, rfl⟩, ⟨by decide, _, rfl⟩⟩

theorem test_witness_CancelledAtFirstBoundaryIssuesNoPulse :
    let m : Framer tiny := { small [] with
      port := { HostPort.quiet with cmdValid := true, cmdOp := 0b110#3, cancel := true } }
    Calm m ∧ m.fsm = .idle ∧ m.respValid = false ∧ m.port.cmdValid = true ∧
      (decode m.port.cmdOp).startsWithSync = true ∧ m.port.cancel = true ∧ m.port.nextMove.cancel = true :=
  ⟨calm_of_quiet (by decide) rfl ⟨rfl, rfl, rfl⟩, rfl, rfl, rfl, rfl, rfl, rfl⟩

theorem test_witness_NoCommandTouchesHostOrHold :
    ∃ t, exec .acquire ⟨tiny, inPhase .sync 0b101#3 [false]⟩ = .next t := ⟨_, rfl⟩

/-- Each command's frame: from IDLE and from its phase. -/
theorem test_witness_PulseFrame :
    ((small []).fsm = .idle ∧ ∃ t, exec .pulse ⟨tiny, small []⟩ = .next t) ∧
    ((inPhase .pulse 0b001#3 [true]).fsm = .pulse ∧
      ∃ t, exec .pulse ⟨tiny, inPhase .pulse 0b001#3 [true]⟩ = .next t) := ⟨⟨rfl, _, rfl⟩, ⟨rfl, _, rfl⟩⟩

theorem test_witness_FlushFrame :
    ((small []).fsm = .idle ∧ ∃ t, exec .flush ⟨tiny, small []⟩ = .next t) ∧
    ((inPhase .flush 0b010#3 [true]).fsm = .flush ∧
      ∃ t, exec .flush ⟨tiny, inPhase .flush 0b010#3 [true]⟩ = .next t) := ⟨⟨rfl, _, rfl⟩, ⟨rfl, _, rfl⟩⟩

theorem test_witness_SyncFrame :
    ((small []).fsm = .idle ∧ ∃ t, exec .sync ⟨tiny, small []⟩ = .next t) ∧
    ((inPhase .sync 0b011#3 [true]).fsm = .sync ∧
      ∃ t, exec .sync ⟨tiny, inPhase .sync 0b011#3 [true]⟩ = .next t) := ⟨⟨rfl, _, rfl⟩, ⟨rfl, _, rfl⟩⟩

/-- READ's frame from IDLE, from a step that goes on (the clause on `sample`), and from the step that ends the phase. -/
theorem test_witness_ReadFrame :
    ((small []).fsm = .idle ∧ ∃ t, exec .read ⟨tiny, small []⟩ = .next t) ∧
    ((inPhase .read 0b100#3 [true]).fsm = .read ∧
      ∃ t, exec .read ⟨tiny, inPhase .read 0b100#3 [true]⟩ = .next t ∧ t.fr.fsm = .read) ∧
    (let m : Framer tiny := { inPhase .read 0b100#3 [true] with cnt := 1 };
      m.fsm = .read ∧ ∃ t, exec .read ⟨tiny, m⟩ = .next t) := ⟨⟨rfl, _, rfl⟩, ⟨rfl, _, rfl, rfl⟩, ⟨rfl, _, rfl⟩⟩

theorem test_witness_CompositeFrames :
    (∃ t, exec .acquire ⟨tiny, small []⟩ = .next t) ∧
    (∃ t, exec .acquire ⟨tiny, inPhase .sync 0b101#3 [true]⟩ = .next t) ∧
    (∃ t, exec .acquire ⟨tiny, inPhase .read 0b101#3 [true]⟩ = .next t ∧ t.fr.fsm = .read) ∧
    (∃ t, exec .startup ⟨tiny, small []⟩ = .next t) ∧
    (∃ t, exec .startup ⟨tiny, inPhase .sync 0b110#3 [true]⟩ = .next t) ∧
    (∃ t, exec .startup ⟨tiny, inPhase .flush 0b110#3 [true]⟩ = .next t) :=
  ⟨⟨_, rfl⟩, ⟨_, rfl⟩, ⟨_, rfl, rfl⟩, ⟨_, rfl⟩, ⟨_, rfl⟩, ⟨_, rfl⟩⟩

theorem test_witness_FlushBurstIssuesExactlyP :
    let m := inPhase .flush 0b010#3 [true]
    Calm m ∧ m.fsm = .flush ∧ m.cnt = 0 ∧ m.sclk = true :=
  ⟨calm_of_quiet (by decide) rfl ⟨rfl, rfl, rfl⟩, rfl, rfl, rfl⟩

/-- The first pulse and the last one. -/
theorem test_witness_ShregHoldsTheBitsReadSoFar :
    let m := inPhase .read 0b100#3 [true, false]
    Calm m ∧ m.fsm = .read ∧ m.cnt = 0 ∧ m.shreg = 0 ∧ m.sclk = true ∧
      (1 ≤ 1 ∧ 1 ≤ tiny.w) ∧ (1 ≤ tiny.w ∧ tiny.w ≤ tiny.w) :=
  ⟨calm_of_quiet (by decide) rfl ⟨rfl, rfl, rfl⟩, rfl, rfl, rfl, rfl, by decide, by decide⟩

theorem test_witness_ReadAssemblesMostSignificantFirst :
    (let m : Framer tiny := { inPhase .read 0b100#3 [true, false] with synced := true };
      Calm m ∧ m.fsm = .read ∧ m.cnt = 0 ∧ m.shreg = 0 ∧ m.sclk = true ∧ FramedPhase m) ∧
    (let m := inPhase .read 0b100#3 [true, false];
      Calm m ∧ m.fsm = .read ∧ m.cnt = 0 ∧ m.shreg = 0 ∧ m.sclk = true ∧ ¬ FramedPhase m) ∧
    0 < tiny.w ∧ 1 < tiny.w :=
  ⟨⟨calm_of_quiet (by decide) rfl ⟨rfl, rfl, rfl⟩, rfl, rfl, rfl, rfl, rfl⟩,
    ⟨calm_of_quiet (by decide) rfl ⟨rfl, rfl, rfl⟩, rfl, rfl, rfl, rfl, Bool.false_ne_true⟩, by decide, by decide⟩

/-- The greatest raw value, 2^W - 1; and two equal lists of one length. -/
theorem test_witness_ReadReturnsTheSpelledValue :
    (let m : Framer tiny := { inPhase .read 0b100#3 [true, true, false] with synced := true };
      Calm m ∧ m.fsm = .read ∧ m.cnt = 0 ∧ m.shreg = 0 ∧ m.sclk = true ∧ FramedPhase m ∧ m.line.driven = true ∧
      3 < 2 ^ tiny.w ∧ m.line.named = msbSpelling tiny.w 3 ++ [false]) ∧
    (([true] : List Bit).length = ([true] : List Bit).length ∧ msbValue [true] = msbValue [true]) :=
  ⟨⟨calm_of_quiet (by decide) rfl ⟨rfl, rfl, rfl⟩, rfl, rfl, rfl, rfl, rfl, rfl, by decide, by decide⟩, rfl, rfl⟩

/-- A search on `1, 0, 0`: it goes on after j = 0, 1, 2 bits and completes at n = 3. -/
theorem searching_completes : CompletesAt tiny.k 3 (Converter.upcoming 3 (drawing [true, false, false])) := by
  refine ⟨⟨by decide, by decide⟩, ?_⟩
  unfold ZerosEndAt
  decide

theorem searching_goes_on :
    ∀ j ∈ [0, 1, 2], ∀ i ≤ j, ¬ ZerosEndAt tiny.k i (Converter.upcoming j (drawing [true, false, false])) := by
  unfold ZerosEndAt
  decide

theorem test_witness_SyncCompletesAtTheFirstMarker (code : Code)
    (h : code = 0b011#3 ∨ code = 0b101#3 ∨ code = 0b110#3) :
    let m := inPhase .sync code [true, false, false]
    Calm m ∧ NoCancel m.port ∧ m.fsm = .sync ∧ m.zrun = 0 ∧ m.sclk = true ∧
      (decode m.op).startsWithSync = true ∧
      (∀ i ≤ 2, ¬ ZerosEndAt tiny.k i (Converter.upcoming 2 m.line)) ∧
      CompletesAt tiny.k 3 (Converter.upcoming 3 m.line) :=
  ⟨calm_of_quiet (by decide) rfl ⟨rfl, rfl, rfl⟩, noCancel_of_quiet rfl rfl, rfl, rfl, rfl,
    by obtain rfl | rfl | rfl := h <;> rfl, searching_goes_on 2 (by decide), searching_completes⟩

/-- An undriven line. -/
theorem test_witness_SyncHasNoTimeout :
    let m : Framer tiny := { inPhase .sync 0b101#3 [] with line := { drawing [false] with driven := false } }
    Calm m ∧ NoCancel m.port ∧ m.fsm = .sync ∧ m.zrun = 0 ∧ m.sclk = true ∧
      (decode m.op).startsWithSync = true ∧ m.line.driven = false :=
  ⟨calm_of_quiet (by decide) rfl ⟨rfl, rfl, rfl⟩, noCancel_of_quiet rfl rfl, rfl, rfl, rfl, rfl, rfl⟩

theorem test_witness_FramedReadReturnsTheFrameValue :
    let m : Framer tiny := { small [true, true, false] with
      synced := true, port := { HostPort.quiet with cmdValid := true, cmdOp := 0b100#3 } }
    Calm m ∧ m.sclk = true ∧ accepts m = true ∧ decode m.port.cmdOp = .read ∧ FramedRead m ∧
      m.line.driven = true ∧ 3 < 2 ^ tiny.w ∧ m.line.named = msbSpelling tiny.w 3 ++ [false] :=
  ⟨calm_of_quiet (by decide) rfl ⟨rfl, rfl, rfl⟩, rfl, rfl, rfl, fun _ => rfl, rfl, by decide, by decide⟩

theorem test_witness_AcquireReturnsTheBitsAfterTheMarker :
    let m := inPhase .sync 0b101#3 [true, false, false]
    Calm m ∧ NoCancel m.port ∧ m.fsm = .sync ∧ m.zrun = 0 ∧ m.sclk = true ∧ decode m.op = .acquire ∧
      CompletesAt tiny.k 3 (Converter.upcoming 3 m.line) :=
  ⟨calm_of_quiet (by decide) rfl ⟨rfl, rfl, rfl⟩, noCancel_of_quiet rfl rfl, rfl, rfl, rfl, rfl, searching_completes⟩

/-- The hypotheses of both pairs of R167. -/
theorem test_witness_SyncThenReadEqualsAcquire :
    let m := inPhase .sync 0b011#3 [true, false, false]
    Calm m ∧ NoCancel m.port ∧ m.fsm = .sync ∧ m.zrun = 0 ∧ m.sclk = true ∧
      CompletesAt tiny.k 3 (Converter.upcoming 3 m.line) :=
  ⟨calm_of_quiet (by decide) rfl ⟨rfl, rfl, rfl⟩, noCancel_of_quiet rfl rfl, rfl, rfl, rfl, searching_completes⟩

theorem test_witness_SyncThenFlushEqualsStartup :
    let m := inPhase .sync 0b110#3 [true, false, false]
    Calm m ∧ NoCancel m.port ∧ m.fsm = .sync ∧ m.zrun = 0 ∧ m.sclk = true ∧
      CompletesAt tiny.k 3 (Converter.upcoming 3 m.line) :=
  ⟨calm_of_quiet (by decide) rfl ⟨rfl, rfl, rfl⟩, noCancel_of_quiet rfl rfl, rfl, rfl, rfl, searching_completes⟩

theorem test_witness_EveryStepKeepsTheInvariant :
    Inv ⟨tiny, inPhase .flush 0b010#3 [true]⟩ ∧ ∃ t, step ⟨tiny, inPhase .flush 0b010#3 [true]⟩ = .next t :=
  ⟨fun _ => flushing_regsInv, _, rfl⟩

theorem test_witness_LegalMachineAlwaysSteps :
    Inv ⟨tiny, inPhase .flush 0b010#3 [true]⟩ ∧ tiny.Legal ∧ (inPhase .flush 0b010#3 [true]).started = true ∧
    badRead (inPhase .flush 0b010#3 [true]) = false := ⟨fun _ => flushing_regsInv, by decide, rfl, rfl⟩

theorem test_witness_CalmMachineRunsSafely :
    Inv ⟨tiny, inPhase .flush 0b010#3 [true]⟩ ∧ Calm (inPhase .flush 0b010#3 [true]) :=
  ⟨fun _ => flushing_regsInv, calm_of_quiet (by decide) rfl ⟨rfl, rfl, rfl⟩⟩

theorem test_witness_BuildParametersNeverChange : ∃ t, step ⟨tiny, inPhase .read 0b100#3 [true]⟩ = .next t := ⟨_, rfl⟩

/-- A block that has been reset, and one whose first reset is at this boundary. -/
theorem test_witness_ClockIsHighAtEveryBoundary :
    (((inPhase .pulse 0b001#3 [true]).started = true → (inPhase .pulse 0b001#3 [true]).sclk = true) ∧
      ∃ t, step ⟨tiny, inPhase .pulse 0b001#3 [true]⟩ = .next t) ∧
    (let m : Framer tiny := { resetting .idle true with started := false, sclk := false, hold := true };
      (m.started = true → m.sclk = true) ∧ (m.started = true → m.hold = false) ∧
      ∃ t, step ⟨tiny, m⟩ = .next t) :=
  ⟨⟨fun _ => rfl, _, rfl⟩, by decide, by decide, _, rfl⟩

theorem test_witness_HoldLineStaysLow :
    ((inPhase .pulse 0b001#3 [true]).started = true → (inPhase .pulse 0b001#3 [true]).hold = false) ∧
    ∃ t, step ⟨tiny, inPhase .pulse 0b001#3 [true]⟩ = .next t := ⟨fun _ => rfl, _, rfl⟩

/-- A step that commits a sample, and one that does not. -/
theorem test_witness_SampleIsCommittedWhole :
    (let m : Framer tiny := { inPhase .read 0b100#3 [true] with cnt := 1 };
      m.sclk = true ∧ m.port.rst = false ∧ ∃ t, step ⟨tiny, m⟩ = .next ⟨tiny, t⟩ ∧ t.sampleValid = true) ∧
    (let m := inPhase .read 0b100#3 [true];
      m.sclk = true ∧ m.port.rst = false ∧ ∃ t, step ⟨tiny, m⟩ = .next ⟨tiny, t⟩ ∧ t.sampleValid = false) :=
  ⟨⟨rfl, rfl, _, rfl, rfl⟩, ⟨rfl, rfl, _, rfl, rfl⟩⟩

/-- A reset, a step without a pulse, and a step with one. -/
theorem test_witness_SyncedMarksTheLastPulse :
    ((resetting .sync true).sclk = true ∧ (resetting .sync true).port.rst = true ∧
      ∃ t, step ⟨tiny, resetting .sync true⟩ = .next ⟨tiny, t⟩) ∧
    ((small []).sclk = true ∧ (small []).port.rst = false ∧
      ∃ t, step ⟨tiny, small []⟩ = .next ⟨tiny, t⟩ ∧ t.pulses = (small []).pulses) ∧
    (let m : Framer tiny := { inPhase .sync 0b011#3 [false] with zrun := 1 };
      m.sclk = true ∧ m.port.rst = false ∧
      ∃ t, step ⟨tiny, m⟩ = .next ⟨tiny, t⟩ ∧ t.pulses ≠ m.pulses ∧ t.synced = true) :=
  ⟨⟨rfl, rfl, _, rfl⟩, ⟨rfl, rfl, _, rfl, rfl⟩, ⟨rfl, rfl, _, rfl, by decide, rfl⟩⟩

theorem test_witness_EveryPulseConsumesOnePosition :
    (inPhase .flush 0b010#3 [true]).sclk = true ∧ (inPhase .flush 0b010#3 [true]).port.rst = false ∧
    ∃ t, step ⟨tiny, inPhase .flush 0b010#3 [true]⟩ = .next ⟨tiny, t⟩ ∧ t.pulses = 1 := ⟨rfl, rfl, _, rfl, rfl⟩

/-- A step that raises a response and a step that does not. -/
theorem test_witness_ResponseIsShownForOneCycle :
    (∃ t, step ⟨tiny, inPhase .pulse 0b001#3 [true]⟩ = .next ⟨tiny, t⟩ ∧ t.respValid = true) ∧
    (∃ t, step ⟨tiny, inPhase .flush 0b010#3 [true]⟩ = .next ⟨tiny, t⟩ ∧ t.respValid = false) ∧
    (∃ t, step ⟨tiny, offered 0b111#3⟩ = .next ⟨tiny, t⟩ ∧ t.respValid = true) :=
  ⟨⟨_, rfl, rfl⟩, ⟨_, rfl, rfl⟩, ⟨_, rfl, rfl⟩⟩

theorem test_witness_DecodeAndEncodeAgree : Instr.startup.wellFormed = true := rfl

/-- The clause on numbers that are no code, at both ends. -/
theorem test_witness_OpcodeMapRows : (8 ≤ 8 ∧ 8 < 256) ∧ (8 ≤ 255 ∧ 255 < 256) := by decide

/-- The least exponent's premise, with equality. -/
theorem test_witness_CounterWidthsAreLeast : 8 ≤ 2 ^ 3 := by decide

theorem test_witness_VoltageBoundaries : (3300 : Rat) ≠ 0 := by norm_num

/-- The system with a trusting loop in `phase` that awaits the response of `i`. -/
def awaiting (phase : LoopPhase) (i : Instr) (m : Framer tiny) : System :=
  { loop := { Loop.start true with phase := phase, booted := true, issue := .running i 0 }, st := ⟨tiny, m⟩ }

/-- The small block as it shows an OK response to `i` with the sample 3. -/
def answered (i : Instr) : Framer tiny :=
  { small [] with op := encode i, respValid := true, sample := 3, sampleValid := true }

/-- A host whose number format knows 0 alone, and whose sleeps last one boundary. -/
def drowsy : LoopConfig :=
  { LoopConfig.reference with threshold := 0, float := fun _ => 0, sleep := fun _ _ => 1 }

/-- An OK response to READ and one to ACQUIRE. -/
theorem test_witness_RunningCycleRecordsAboveThreshold (i : Instr) (h : i = .read ∨ i = .acquire) :
    (∃ y, (awaiting .running i (answered i)).step drowsy atSeven = .next y) ∧
    (∃ y, (awaiting .running i (answered i)).step (drowsy.forBlock tiny) atSeven = .next y) ∧
    (drowsy.forBlock tiny).Agrees (awaiting .running i (answered i)).st.cfg ∧
    (awaiting .running i (answered i)).loop.phase = .running ∧
    (awaiting .running i (answered i)).loop.booted = true ∧
    (awaiting .running i (answered i)).loop.issue = .running i 0 ∧
    (awaiting .running i (answered i)).st.fr.respValid = true ∧
    (awaiting .running i (answered i)).st.fr.respStatus = .ok ∧ atSeven.terminate = false ∧ atSeven.reset = false := by
  refine ⟨?_, ?_, rfl, rfl, rfl, rfl, rfl, rfl, rfl, rfl⟩ <;> obtain rfl | rfl := h <;> exact ⟨_, rfl⟩

/-- A loop that trusts nothing yet, one that STARTUP's response makes trust, and one that is reset. -/
theorem test_witness_LoopTrustsNoSampleBeforeStartup (lc : LoopConfig) :
    (System.reset.loop.booted = false ∧ ∃ y, System.reset.step lc atSeven = .next y) ∧
    (let x : System := { loop := { Loop.start true with issue := .running .startup 0 }, st := ⟨tiny, answered .startup⟩ };
      x.loop.booted = false ∧ ∃ y, x.step { lc with oneCommand := true } atSeven = .next y ∧ y.loop.booted = true) ∧
    (let e : LoopInput := { atSeven with reset := true };
      e.reset = true ∧ e.terminate = false ∧
      (∃ y, (awaiting .starting .acquire (inPhase .sync 0b101#3 [])).step lc e = .next y) ∧
      (∃ y, (awaiting .running .acquire (inPhase .sync 0b101#3 [])).step lc e = .next y)) :=
  ⟨⟨rfl, _, rfl⟩, ⟨rfl, _, rfl, rfl⟩, rfl, rfl, ⟨_, rfl⟩, _, rfl⟩

/-- A command presented, in a reset cycle too, and one in progress, without and with a reset, while the host
terminates. -/
theorem test_witness_TerminationWaitsForTheResponse (lc : LoopConfig) :
    (let l : Loop := { Loop.start true with phase := .terminating, issue := .presented .acquire };
      let x : System := { loop := l, st := ⟨tiny, small []⟩ };
      x.loop.phase = .terminating ∧ (∃ i, x.loop.issue = .presented i) ∧
      ∀ rst, ∃ y, x.step lc { atSeven with reset := rst } = .next y) ∧
    (let x := awaiting .terminating .acquire (inPhase .sync 0b101#3 []);
      x.loop.phase = .terminating ∧ (∃ i base, x.loop.issue = .running i base) ∧ x.st.fr.respValid = false ∧
      ∀ rst, ∃ y, x.step lc { atSeven with reset := rst } = .next y) :=
  ⟨⟨rfl, ⟨_, rfl⟩, fun rst => by cases rst <;> exact ⟨_, rfl⟩⟩,
    rfl, ⟨_, _, rfl⟩, rfl, fun rst => by cases rst <;> exact ⟨_, rfl⟩⟩

/-- The clauses: no last sample, one, a phase that is not TERMINATING, and a command in progress. -/
theorem test_witness_FinalRecordOnlyIfASampleExists :
    (let l := (Loop.start true).terminate true;
      l.phase = .terminating ∧ l.issue = .free ∧ l.last = none) ∧
    (let l : Loop := { (Loop.start true).terminate true with last := some { stamp := 3, voltage := 1650 } };
      l.phase = .terminating ∧ l.issue = .free ∧ l.last = some { stamp := 3, voltage := 1650 }) ∧
    (Loop.start true).phase ≠ .terminating ∧
    (awaiting .terminating .acquire (small [])).loop.issue ≠ .free := by
  refine ⟨⟨rfl, rfl, rfl⟩, ⟨rfl, rfl, rfl⟩, by decide, by decide⟩

/-- A code presented to a ready block and to one that is not, one in progress without and with a reset, and one
answered. -/
theorem test_witness_CommandLineWaitsForItsResponse :
    (let r : Runner := { Runner.load [] with issue := .presented .sync };
      r.issue = .presented .sync ∧ (∃ q t, r.step ⟨tiny, small []⟩ = .next (q, t)) ∧
      cmdReady (small []) = true ∧ (∃ q t, r.step ⟨tiny, answered .pulse⟩ = .next (q, t)) ∧
      cmdReady (answered .pulse) = false ∧ tiny.Legal ∧
      (small []).started = true ∧ (small []).port.rst = false ∧ (small []).fsm = .idle ∧
      (small []).respValid = false) ∧
    (let r : Runner := { Runner.load [] with issue := .running .sync 0 };
      (∃ q t, r.step ⟨tiny, inPhase .sync 0b011#3 [true]⟩ = .next (q, t)) ∧
      (inPhase .sync 0b011#3 [true]).respValid = false ∧
      (r.boundary (inPhase .sync 0b011#3 [true])).2.port.rst = false ∧
      (let r' : Runner := { r with indented := [(0, .reset false)] };
        (∃ q t, r'.step ⟨tiny, inPhase .sync 0b011#3 [true]⟩ = .next (q, t)) ∧
        (r'.boundary (inPhase .sync 0b011#3 [true])).2.port.rst = true) ∧
      (∃ q t, r.step ⟨tiny, answered .sync⟩ = .next (q, t)) ∧ (answered .sync).respValid = true) :=
  ⟨⟨rfl, ⟨_, _, rfl⟩, rfl, ⟨_, _, rfl⟩, rfl, by decide, rfl, rfl, rfl, rfl⟩,
    ⟨_, _, rfl⟩, rfl, rfl, ⟨⟨_, _, rfl⟩, rfl⟩, ⟨_, _, rfl⟩, rfl⟩

/-- The premise `TrustedAfter`, at the boundary that shows STARTUP's OK response. -/
theorem test_trusted_after_startup : TrustedAfter 0 ⟨tiny, answered .startup⟩ :=
  ⟨0, Nat.le.refl, ⟨_, rfl, rfl, rfl, rfl⟩, fun i h0 h1 => absurd h1 (by omega)⟩

/-- The least T_HIGH the synchronizer allows, in a SYNC phase; and a SYNC phase that is cancelled. -/
theorem test_witness_PulseSlotRefinesOneStep :
    (let m := inPhase .sync 0b011#3 [false]; let t : Timing := { tLow := 1, tHigh := 3 };
      tiny.Legal ∧ t.Legal ∧ 3 ≤ t.tHigh ∧ m.started = true ∧ m.port.rst = false ∧ m.port.midPulse = false ∧
      m.port.readSample = false ∧ m.port.plan = [] ∧ m.fsm ≠ .idle ∧ m.sclk = true ∧
      (m.fsm = .sync → m.port.cancel = false) ∧ ∃ u, exec (decode m.op) ⟨tiny, m⟩ = .next ⟨tiny, u⟩) ∧
    (let m := cancelling .sync 0b011#3; let t : Timing := { tLow := 1, tHigh := 1 };
      tiny.Legal ∧ t.Legal ∧ m.started = true ∧ m.port.rst = false ∧ m.port.readSample = false ∧ m.fsm = .sync ∧
      m.port.cancel = true) :=
  ⟨⟨by decide, by decide, by decide, rfl, rfl, rfl, rfl, rfl, by decide, rfl, fun _ => rfl, _, rfl⟩,
    by decide, by decide, rfl, rfl, rfl, rfl, rfl⟩

end Sys2Proof.Tests
end

section
/-! PROOFS. The scope's statements (00_scope R8 to R10): the counter widths, the refusal of an illegal configuration,
and the build parameters across a step. -/

namespace Sys2Proof.Machine

variable {c : Params}

/-! ### The legal range -/

/-- A configuration is outside the legal range exactly where one of its bounds fails; `max(16, 2K)` gives P two. -/
theorem not_legal_iff (c : Params) : ¬ c.Legal ↔ c.k < 1 ∨ c.w < 1 ∨ c.p < 16 ∨ c.p < 2 * c.k := by
  unfold Params.Legal
  omega

/-! ### How a step stops -/

/-- A step of a command stops only where its SYNC phase ends with no `SyncEnd()` (43_serial_framer R164). -/
theorem commandStep_refused {row : Row c} {m : Framer c} {q : Refusal} (h : commandStep row m = .refused q) :
    q = .noSyncEnd := by
  by_cases hi : m.fsm = .idle
  · rw [commandStep_idle row m hi] at h
    cases h
  · by_cases hc : m.fsm = .sync ∧ m.port.cancel = true
    · rw [commandStep_cancel row m hc.1 hc.2] at h
      cases h
    · rw [commandStep_pulse row m hi (fun hs => by simpa [hs] using hc)] at h
      cases hu : pulseOfPhase row m with
      | none => rw [hu] at h; exact (Host.Outcome.refused.inj h).symm
      | some u => rw [hu] at h; cases h

theorem step_notStarted (m : Framer c) (hl : c.Legal) (hb : badRead m = false) (hr : m.port.rst = false)
    (hs : m.started = false) : step ⟨c, m⟩ = .fault .noResetYet := by
  simp [step, boundary, hl, hb, hr, hs]

/-- The host's turn adds no refusal. -/
theorem thenHost_refused {a : Bool} {n : Nat} {o : Host.Outcome State Fault Refusal} {q : Refusal}
    (h : Outcome.thenHost a n o = .refused q) : o = .refused q := by
  cases o with
  | next t => cases h
  | fault f => cases h
  | refused r => exact h

/-- In a legal configuration a step refuses only through the command it runs. -/
theorem step_refused_of_legal {m : Framer c} {q : Refusal} (hl : c.Legal) (h : step ⟨c, m⟩ = .refused q) :
    q = .noSyncEnd := by
  cases hb : badRead m with
  | true => rw [step_badRead ⟨c, m⟩ hl hb] at h; cases h
  | false =>
    cases hr : m.port.rst with
    | true => rw [step_reset m hl hb hr] at h; cases h
    | false =>
      cases hs : m.started with
      | false => rw [step_notStarted m hl hb hr hs] at h; cases h
      | true =>
        cases hi : currentCommand m with
        | none => rw [step_idle m hl hb hr hs hi] at h; cases h
        | some i =>
          rw [step_run m i hl hb hr hs hi, exec_eq] at h
          exact commandStep_refused (thenHost_refused h)

/-- A step refuses a configuration exactly outside the legal range (00_scope R8). -/
theorem step_illegalConfig_iff (s : State) : step s = .refused .illegalConfig ↔ ¬ s.cfg.Legal := by
  refine ⟨fun h hl => ?_, step_illegal s⟩
  cases step_refused_of_legal (m := s.fr) hl h

/-! ### The build parameters across a step -/

theorem commandStep_cfg {row : Row c} {m : Framer c} {t : State} (h : commandStep row m = .next t) : t.cfg = c := by
  obtain ⟨-, rfl⟩ | ⟨-, -, rfl⟩ | ⟨-, u, -, rfl⟩ := commandStep_cases h <;> rfl

/-- The parameters are in no register: the reset, a command, the idle boundary and the host's turn all keep them. -/
theorem step_cfg {m : Framer c} {t : State} (h : step ⟨c, m⟩ = .next t) : t.cfg = c := by
  obtain ⟨-, -, ⟨-, rfl⟩ | ⟨-, -, i, u, -, hu, rfl⟩ | ⟨-, -, -, rfl⟩⟩ := step_cases h
  · rfl
  · exact (hostTurn_cfg ..).trans (commandStep_cfg hu)
  · rfl

/-! ### The obligations -/

/-- Settles O53: the two laws of `clog2` give leastness, and each width's sufficiency follows from its definition. -/
theorem counterWidthsAreLeast : Obligations.CounterWidthsAreLeast :=
  ⟨fun n => ⟨le_two_pow_clog2 n, fun _ => clog2_le_of_le_two_pow⟩,
    fun c => ⟨rfl, rfl, k_lt_two_pow_zw c, max_lt_two_pow_cw c⟩, by decide, by decide⟩

/-- Settles O5: an illegal configuration is refused before all else, and a legal one is refused, if at all, for another
reason. -/
theorem illegalConfigurationIsRefused : Obligations.IllegalConfigurationIsRefused :=
  ⟨fun s h => (step_illegalConfig_iff s).mpr ((not_legal_iff s.cfg).mpr h),
    fun s h => (not_legal_iff s.cfg).mp ((step_illegalConfig_iff s).mp h), rfl⟩

/-- Settles O44, case by case over what a step can do. -/
theorem buildParametersNeverChange : Obligations.BuildParametersNeverChange :=
  fun s _ h => step_cfg (m := s.fr) h

end Sys2Proof.Machine
end

section
/-! PROOFS. The state's statements (10_state R20 to R47): what a step leaves of the HOLD line and the ports, `synced` and
`resp_valid` after a step, the reset values, the outputs, and the invariant at reset. -/

namespace Sys2Proof.Machine

variable {c : Params}

/-! ### Fields across the host's turn -/

@[simp] theorem hostTurn_fsm (a : Bool) (n : Nat) (s : State) : (hostTurn a n s).fr.fsm = s.fr.fsm := rfl
@[simp] theorem hostTurn_synced (a : Bool) (n : Nat) (s : State) : (hostTurn a n s).fr.synced = s.fr.synced := rfl
@[simp] theorem hostTurn_respValid (a : Bool) (n : Nat) (s : State) :
    (hostTurn a n s).fr.respValid = s.fr.respValid := rfl
@[simp] theorem hostTurn_pulses (a : Bool) (n : Nat) (s : State) : (hostTurn a n s).fr.pulses = s.fr.pulses := rfl

/-! ### Fields across an acceptance -/

@[simp] theorem accept_rowOf_hold (i : Instr) (m : Framer c) : (accept (rowOf c i) m).hold = m.hold := by
  cases i <;> rfl
@[simp] theorem accept_rowOf_started (i : Instr) (m : Framer c) : (accept (rowOf c i) m).started = m.started := by
  cases i <;> rfl
@[simp] theorem accept_rowOf_synced (i : Instr) (m : Framer c) : (accept (rowOf c i) m).synced = m.synced := by
  cases i <;> rfl
@[simp] theorem accept_rowOf_pulses (i : Instr) (m : Framer c) : (accept (rowOf c i) m).pulses = m.pulses := by
  cases i <;> rfl

/-- An acceptance responds at once exactly to a reserved code (43_serial_framer R163). -/
@[simp] theorem accept_rowOf_respValid (i : Instr) (m : Framer c) :
    (accept (rowOf c i) m).respValid = i.reserved := by
  cases i <;> rfl

/-! ### Fields across the end of a SYNC phase and across a pulse -/

/-- A `SyncEnd()` starts a phase or responds; these registers it leaves (43_serial_framer R164). -/
theorem syncEnd_keeps {i : Instr} {f : Framer c → Framer c} (h : (rowOf c i).syncEnd = some f) (m : Framer c) :
    (f m).hold = m.hold ∧ (f m).started = m.started ∧ (f m).synced = m.synced ∧ (f m).pulses = m.pulses := by
  obtain ⟨-, rfl⟩ | ⟨-, rfl⟩ | ⟨-, rfl⟩ := syncEnd_cases h <;> exact ⟨rfl, rfl, rfl, rfl⟩

/-- A `SyncEnd()` raises a response exactly where it ends the command. -/
theorem syncEnd_respValid_iff {i : Instr} {f : Framer c → Framer c} (h : (rowOf c i).syncEnd = some f)
    {m : Framer c} (hr : m.respValid = false) : (f m).respValid = true ↔ (f m).fsm = .idle := by
  obtain ⟨-, rfl⟩ | ⟨-, rfl⟩ | ⟨-, rfl⟩ := syncEnd_cases h <;> simp [hr]

/-- The register updates of a pulse leave HOLD, the first reset and the pulse count. -/
theorem phaseUpdate_keeps {i : Instr} {b : Bit} {m u : Framer c} (h : phaseUpdate (rowOf c i) b m = some u)
    (hi : m.fsm ≠ .idle) : u.hold = m.hold ∧ u.started = m.started ∧ u.pulses = m.pulses := by
  obtain ⟨-, rfl⟩ | ⟨-, -, rfl⟩ | ⟨-, -, rfl⟩ | ⟨-, -, rfl⟩ | ⟨-, -, f, hf, rfl⟩ | ⟨-, -, rfl⟩ | ⟨-, -, rfl⟩ :=
    phaseUpdate_cases h hi
  case inr.inr.inr.inr.inl =>
    obtain ⟨hhold, hstarted, -, hpulses⟩ := syncEnd_keeps hf _
    exact ⟨hhold, hstarted, hpulses⟩
  all_goals exact ⟨rfl, rfl, rfl⟩

/-- After a pulse `synced` is 1 exactly if the pulse completed a marker (41_frame_synchronizer R123). -/
theorem phaseUpdate_synced_iff {i : Instr} {b : Bit} {m u : Framer c} (h : phaseUpdate (rowOf c i) b m = some u)
    (hi : m.fsm ≠ .idle) : u.synced = true ↔ m.fsm = .sync ∧ (nextRun b m.zrun).toNat = c.k := by
  obtain ⟨hf, rfl⟩ | ⟨hf, -, rfl⟩ | ⟨hf, -, rfl⟩ | ⟨hf, hk, rfl⟩ | ⟨hf, hk, f, he, rfl⟩ | ⟨hf, -, rfl⟩ |
    ⟨hf, -, rfl⟩ := phaseUpdate_cases h hi
  case inr.inr.inr.inr.inl =>
    obtain ⟨-, -, hsynced, -⟩ := syncEnd_keeps he _
    exact iff_of_true hsynced ⟨hf, hk⟩
  case inr.inr.inr.inl => simp [hf, hk]
  all_goals simp [hf]

/-- A pulse raises a response exactly where it ends the command's last phase (30_encoding R82). -/
theorem phaseUpdate_respValid_iff {i : Instr} {b : Bit} {m u : Framer c}
    (h : phaseUpdate (rowOf c i) b m = some u) (hi : m.fsm ≠ .idle) (hr : m.respValid = false) :
    u.respValid = true ↔ u.fsm = .idle := by
  obtain ⟨-, rfl⟩ | ⟨-, -, rfl⟩ | ⟨-, -, rfl⟩ | ⟨-, -, rfl⟩ | ⟨-, -, f, hf, rfl⟩ | ⟨-, -, rfl⟩ | ⟨-, -, rfl⟩ :=
    phaseUpdate_cases h hi
  case inr.inr.inr.inr.inl => exact syncEnd_respValid_iff hf hr
  all_goals simp [hr, hi]

/-! ### One step of a command -/

theorem commandStep_keeps_hold_started {i : Instr} {m : Framer c} {t : State}
    (h : commandStep (rowOf c i) m = .next t) : t.fr.hold = m.hold ∧ t.fr.started = m.started := by
  obtain ⟨-, rfl⟩ | ⟨-, -, rfl⟩ | ⟨hi, u, hu, rfl⟩ := commandStep_cases h
  · simp
  · exact ⟨rfl, rfl⟩
  · obtain ⟨hhold, hstarted, -⟩ := phaseUpdate_keeps hu (by simpa using hi)
    simpa using And.intro hhold hstarted

/-- From the idle clock level a step of a command makes no pulse and leaves `synced`, or it makes one, after which
`synced` is 1 exactly if a marker is complete. -/
theorem commandStep_synced {i : Instr} {m : Framer c} {t : State} (hs : m.sclk = true)
    (h : commandStep (rowOf c i) m = .next t) :
    (t.fr.pulses = m.pulses ∧ t.fr.synced = m.synced) ∨
    (t.fr.pulses = m.pulses + 1 ∧
      (t.fr.synced = true ↔ m.fsm = .sync ∧ (nextRun m.line.shift.level m.zrun).toNat = c.k)) := by
  rw [← exec_eq] at h
  obtain ⟨-, rfl⟩ | ⟨-, -, rfl⟩ | ⟨hi, u, rfl, hu⟩ := exec_cases hs h
  · exact .inl (by simp)
  · exact .inl ⟨rfl, rfl⟩
  · obtain ⟨-, -, hpulses⟩ := phaseUpdate_keeps hu hi
    have hsynced := phaseUpdate_synced_iff hu hi
    exact .inr ⟨hpulses, hsynced⟩

/-- A step of a command raises a response exactly where its last phase ends or its reserved code is accepted. -/
theorem commandStep_respValid_iff {i : Instr} {m : Framer c} {t : State}
    (h : commandStep (rowOf c i) m = .next t) :
    t.fr.respValid = true ↔ (m.fsm ≠ .idle ∧ t.fr.fsm = .idle) ∨ (m.fsm = .idle ∧ i.reserved = true) := by
  obtain ⟨hi, rfl⟩ | ⟨hf, -, rfl⟩ | ⟨hi, u, hu, rfl⟩ := commandStep_cases h
  · simp [hi]
  · simp [hf]
  · simpa [hi] using phaseUpdate_respValid_iff hu (by simpa using hi) (by simp)

/-! ### A step boundary -/

/-- A step keeps the HOLD line, and a reset drives it low (10_state R27). -/
theorem step_hold {m : Framer c} {t : State} (h : step ⟨c, m⟩ = .next t) :
    (m.port.rst = true ∧ t.fr.hold = false) ∨ (m.started = true ∧ t.fr.hold = m.hold) := by
  obtain ⟨-, -, ⟨hr, rfl⟩ | ⟨-, hs, i, u, -, hu, rfl⟩ | ⟨-, hs, -, rfl⟩⟩ := step_cases h
  · exact .inl ⟨hr, rfl⟩
  · exact .inr ⟨hs, (commandStep_keeps_hold_started hu).1⟩
  · exact .inr ⟨hs, rfl⟩

/-- `synced` and the pulses of a step with `rst_i` = 0 are those of its command; an idle boundary makes no pulse. -/
theorem step_synced {m : Framer c} {t : State} (hs : m.sclk = true) (hr : m.port.rst = false)
    (h : step ⟨c, m⟩ = .next t) :
    (t.fr.pulses = m.pulses ∧ t.fr.synced = m.synced) ∨
    (t.fr.pulses = m.pulses + 1 ∧
      (t.fr.synced = true ↔ m.fsm = .sync ∧ (nextRun m.line.shift.level m.zrun).toNat = c.k)) := by
  obtain ⟨-, -, ⟨hr', -⟩ | ⟨-, -, i, u, -, hu, rfl⟩ | ⟨-, -, -, rfl⟩⟩ := step_cases h
  · simp [hr] at hr'
  · simpa using commandStep_synced hs hu
  · exact .inl ⟨rfl, rfl⟩

theorem step_synced_reset {m : Framer c} {t : State} (hr : m.port.rst = true) (h : step ⟨c, m⟩ = .next t) :
    t.fr.synced = false := by
  obtain ⟨-, -, ⟨-, rfl⟩ | ⟨hr', -⟩ | ⟨hr', -⟩⟩ := step_cases h
  · rfl
  · simp [hr] at hr'
  · simp [hr] at hr'

/-- The command a boundary runs from an IDLE block is the accepted one. -/
theorem currentCommand_idle_some_iff {m : Framer c} (hi : m.fsm = .idle) (i : Instr) :
    currentCommand m = some i ↔ accepts m = true ∧ decode m.port.cmdOp = i := by
  simp [currentCommand_idle m hi]

/-- A boundary runs no command exactly where an IDLE block accepts none. -/
theorem currentCommand_none_iff (m : Framer c) : currentCommand m = none ↔ m.fsm = .idle ∧ accepts m = false := by
  by_cases hi : m.fsm = .idle
  · simp [currentCommand_idle m hi, hi]
  · simp [currentCommand_busy m hi, hi]

/-- `resp_valid` after a step (10_state R40). -/
theorem step_respValid_iff {m : Framer c} {t : State} (h : step ⟨c, m⟩ = .next t) :
    t.fr.respValid = true ↔
      m.port.rst = false ∧
      ((m.fsm ≠ .idle ∧ t.fr.fsm = .idle) ∨
       (m.fsm = .idle ∧ accepts m = true ∧ (decode m.port.cmdOp).reserved = true)) := by
  obtain ⟨-, -, ⟨hr, rfl⟩ | ⟨hr, -, i, u, hi, hu, rfl⟩ | ⟨hr, -, hi, rfl⟩⟩ := step_cases h
  · simp [hr]
  · by_cases hf : m.fsm = .idle
    · obtain ⟨ha, rfl⟩ := (currentCommand_idle_some_iff hf i).mp hi
      simp [commandStep_respValid_iff hu, hr, hf, ha]
    · simp [commandStep_respValid_iff hu, hr, hf]
  · obtain ⟨hf, ha⟩ := (currentCommand_none_iff m).mp hi
    simp [idleStep, hf, ha]

/-! ### Reset -/

/-- The registers at their reset values meet the invariant, with whatever converter and host. -/
theorem reset_regsInv (c : Params) (line : Converter) (port : HostPort) : RegsInv (Framer.reset c line port) where
  sclk_high := rfl
  hold_low := rfl
  zrun_le := by simp [Framer.reset]
  cnt_le := by simp [Framer.reset]
  resp_idle := fun _ => rfl
  synced_bit := by simp [Framer.reset]
  synced_run := by simp [Framer.reset]
  sample_none := fun _ => rfl
  status_illegal := by simp [Framer.reset]
  status_cancelled := by simp [Framer.reset]
  phase := trivial

/-! ### The derived outputs (10_state R42) -/

theorem busy_iff (m : Framer c) : busy m = true ↔ m.fsm ≠ .idle := by
  simp [busy]

theorem cmdReady_iff (m : Framer c) :
    cmdReady m = true ↔ m.fsm = .idle ∧ m.port.rst = false ∧ m.respValid = false := by
  simp [cmdReady, and_assoc]

/-- Of the input ports the outputs read `rst_i` alone. -/
theorem outputs_withPort (m : Framer c) (port : HostPort) (h : port.rst = m.port.rst) :
    outputs { m with port := port } = outputs m := by
  simp [outputs, cmdReady, busy, h]

/-! ### The obligations -/

/-- Settles O24: the ports, HOLD and the first reset are in no register update of a command. -/
theorem noCommandTouchesHostOrHold : Obligations.NoCommandTouchesHostOrHold := by
  intro c m i t h
  rw [exec_eq] at h
  obtain rfl : t.cfg = c := commandStep_cfg h
  obtain ⟨hhold, hstarted⟩ := commandStep_keeps_hold_started h
  exact ⟨t.fr, rfl, hhold, commandStep_keeps_port h, hstarted⟩

/-- Settles O46: a reset drives HOLD low, and every other step is of a block that has been reset and keeps it. -/
theorem holdLineStaysLow : Obligations.HoldLineStaysLow := by
  intro c m t hlow h
  obtain ⟨-, ht⟩ | ⟨hs, ht⟩ := step_hold h
  · exact ht
  · exact ht.trans (hlow hs)

/-- Settles O48: the pulse count tells apart the two kinds of step outside reset. -/
theorem syncedMarksTheLastPulse : Obligations.SyncedMarksTheLastPulse := by
  intro c m t hs h
  refine ⟨fun hr => step_synced_reset hr h, fun hr hp => ?_, fun hr hp => ?_⟩
  · obtain ⟨-, ht⟩ | ⟨hp', -⟩ := step_synced hs hr h
    · exact ht
    · exact absurd (hp.symm.trans hp') (by omega)
  · obtain ⟨hp', -⟩ | ⟨-, ht⟩ := step_synced hs hr h
    · exact absurd hp' hp
    · exact ht

/-- Settles O50, case by case over what a step can do. -/
theorem responseIsShownForOneCycle : Obligations.ResponseIsShownForOneCycle :=
  fun _ _ _ h => step_respValid_iff h

/-- Settles O2: the reset's registers, and a turn of the host that is told of no acceptance. -/
theorem resetTakesEveryResetValue : Obligations.ResetTakesEveryResetValue :=
  fun _ m hl hb hr => ⟨_, step_reset m hl hb hr, rfl, rfl, rfl, rfl, rfl, rfl, rfl, rfl, rfl, rfl, rfl, rfl, rfl,
    HostPort_turn_holds m.sample.toNat m.port⟩

/-- Settles O13: the direct outputs by their definition, the derived ones and the independence of the ports by the lemmas
above. -/
theorem outputsShowTheRegisters : Obligations.OutputsShowTheRegisters := by
  intro c m
  refine ⟨rfl, rfl, ?ok, ?cancelled, ?illegal, rfl, rfl, rfl, rfl, rfl, rfl, busy_iff m, cmdReady_iff m,
    fun _ => rfl, outputs_withPort m⟩
  all_goals
    intro hst
    simp [outputs, hst, Status.code]

/-- Settles O40: the machine right after reset is at the reset values, in the reference configuration. -/
theorem resetMeetsTheInvariant : Obligations.ResetMeetsTheInvariant :=
  fun _ => reset_regsInv _ _ _

end Sys2Proof.Machine
end

section
/-! PROOFS. The memory's statements (20_memory R53, R58): the bit positions the pulses consume, and the one step that
commits a sample. -/

namespace Sys2Proof.Machine

variable {c : Params}

/-! ### The converter and the data registers across an acceptance and the end of a SYNC phase -/

@[simp] theorem accept_rowOf_line (i : Instr) (m : Framer c) : (accept (rowOf c i) m).line = m.line := by
  cases i <;> rfl
@[simp] theorem accept_rowOf_lastBit (i : Instr) (m : Framer c) : (accept (rowOf c i) m).lastBit = m.lastBit := by
  cases i <;> rfl
@[simp] theorem accept_rowOf_sample (i : Instr) (m : Framer c) : (accept (rowOf c i) m).sample = m.sample := by
  cases i <;> rfl
@[simp] theorem accept_rowOf_sampleValid (i : Instr) (m : Framer c) :
    (accept (rowOf c i) m).sampleValid = m.sampleValid := by
  cases i <;> rfl

/-- A `SyncEnd()` reads no bit and commits no sample. -/
theorem syncEnd_keeps_data {i : Instr} {f : Framer c → Framer c} (h : (rowOf c i).syncEnd = some f) (m : Framer c) :
    (f m).line = m.line ∧ (f m).lastBit = m.lastBit ∧ (f m).sample = m.sample ∧
      (f m).sampleValid = m.sampleValid := by
  obtain ⟨-, rfl⟩ | ⟨-, rfl⟩ | ⟨-, rfl⟩ := syncEnd_cases h <;> exact ⟨rfl, rfl, rfl, rfl⟩

/-! ### The converter and the data registers across a pulse -/

/-- The register updates of a pulse move the converter no further; every phase but FLUSH keeps the bit read. -/
theorem phaseUpdate_line_lastBit {i : Instr} {b : Bit} {m u : Framer c} (h : phaseUpdate (rowOf c i) b m = some u)
    (hi : m.fsm ≠ .idle) : u.line = m.line ∧ u.lastBit = if m.fsm = .flush then m.lastBit else b := by
  obtain ⟨hf, rfl⟩ | ⟨hf, -, rfl⟩ | ⟨hf, -, rfl⟩ | ⟨hf, -, rfl⟩ | ⟨hf, -, f, he, rfl⟩ | ⟨hf, -, rfl⟩ | ⟨hf, -, rfl⟩ :=
    phaseUpdate_cases h hi
  case inr.inr.inr.inr.inl =>
    obtain ⟨hline, hlast, -, -⟩ := syncEnd_keeps_data he _
    rw [if_neg (by simp [hf])]
    exact ⟨hline, hlast⟩
  all_goals simp [hf]

/-- A pulse leaves the sample, or it is the W-th of a READ phase and commits the whole value (42_adc_bit_collector R141). -/
theorem phaseUpdate_sample_cases {i : Instr} {b : Bit} {m u : Framer c} (h : phaseUpdate (rowOf c i) b m = some u)
    (hi : m.fsm ≠ .idle) :
    (u.sample = m.sample ∧ u.sampleValid = m.sampleValid) ∨
    (m.fsm = .read ∧ (m.cnt + 1).toNat = c.w ∧ u.sample = shiftIn m.shreg b ∧ u.sampleValid = true ∧
      u.fsm = .idle ∧ u.respValid = true ∧ u.respStatus = .ok) := by
  obtain ⟨-, rfl⟩ | ⟨-, -, rfl⟩ | ⟨-, -, rfl⟩ | ⟨-, -, rfl⟩ | ⟨-, -, f, he, rfl⟩ | ⟨-, -, rfl⟩ | ⟨hf, hk, rfl⟩ :=
    phaseUpdate_cases h hi
  case inr.inr.inr.inr.inl =>
    obtain ⟨-, -, hsample, hvalid⟩ := syncEnd_keeps_data he _
    exact .inl ⟨hsample, hvalid⟩
  case inr.inr.inr.inr.inr.inr => exact .inr ⟨hf, hk, rfl, rfl, rfl, rfl, rfl⟩
  all_goals exact .inl ⟨rfl, rfl⟩

/-! ### A step boundary -/

/-- A step with `rst_i` = 0 makes no pulse and leaves the converter and the data registers, or it makes one pulse of the
phase in progress: the converter shifts once, the phase's updates follow, and then the host sets the ports. -/
theorem step_pulse_cases {m t : Framer c} (hs : m.sclk = true) (hr : m.port.rst = false)
    (h : step ⟨c, m⟩ = .next ⟨c, t⟩) :
    (t.pulses = m.pulses ∧ t.line = m.line ∧ t.lastBit = m.lastBit ∧ t.sample = m.sample ∧
      t.sampleValid = m.sampleValid) ∨
    (m.fsm ≠ .idle ∧ ∃ i u port, t = { u with port := port } ∧
      phaseUpdate (rowOf c i) m.line.shift.level
        { m with respValid := false, line := m.line.shift, pulses := m.pulses + 1 } = some u) := by
  obtain ⟨-, -, ⟨hr', -⟩ | ⟨-, -, i, v, -, hv, ht⟩ | ⟨-, -, -, ht⟩⟩ := step_cases h
  · simp [hr] at hr'
  · rw [← exec_eq] at hv
    obtain ⟨-, rfl⟩ | ⟨-, -, rfl⟩ | ⟨hi, u, rfl, hu⟩ := exec_cases hs hv
    · cases ht
      exact .inl (by simp)
    · cases ht
      exact .inl ⟨rfl, rfl, rfl, rfl, rfl⟩
    · cases ht
      exact .inr ⟨hi, i, u, _, rfl, hu⟩
  · cases ht
    exact .inl ⟨rfl, rfl, rfl, rfl, rfl⟩

/-! ### The obligations -/

/-- Settles O47: outside reset only a pulse can change the sample, and of the pulses only a READ phase's last one does. -/
theorem sampleIsCommittedWhole : Obligations.SampleIsCommittedWhole := by
  intro c m t hs hr h
  obtain ⟨-, -, -, hsample, hvalid⟩ | ⟨hi, i, u, port, rfl, hu⟩ := step_pulse_cases hs hr h
  · exact .inl ⟨hsample, hvalid⟩
  · have hsample := phaseUpdate_sample_cases hu hi
    exact hsample

/-- Settles O49: a pulse's falling edge shifts the converter once, its register updates shift it no further, and a step
without a pulse leaves it. -/
theorem everyPulseConsumesOnePosition : Obligations.EveryPulseConsumesOnePosition := by
  intro c m t hs hr h
  obtain ⟨hpulses, hline, hlast, -, -⟩ | ⟨hi, i, u, port, rfl, hu⟩ := step_pulse_cases hs hr h
  · exact .inl ⟨hpulses, hline, hlast⟩
  · obtain ⟨-, -, hpulses⟩ := phaseUpdate_keeps hu hi
    obtain ⟨hline, hlast⟩ := phaseUpdate_line_lastBit hu hi
    exact .inr ⟨hi, hpulses, hline, congrArg Converter.pos hline, by simpa [hline] using hlast⟩

end Sys2Proof.Machine
end

section
/-! PROOFS. The encoding's statements (30_encoding R71 to R84): the opcode map, the command port of a block that is not
ready, and a command line from its presenting to its response. -/

namespace Sys2Proof

/-! ### The opcode map -/

@[simp] theorem decode_encode (i : Instr) : decode (encode i) = i := by
  cases i <;> rfl

/-- No code is left over: each is the encoding of the command it decodes to. -/
@[simp] theorem encode_decode (code : Code) : encode (decode code) = code := by
  revert code
  decide

theorem decodeNumber_encode (i : Instr) : decodeNumber (encode i).toNat = .ok i := by
  simp only [decodeNumber, if_pos (encode i).isLt, BitVec.ofNat_toNat, BitVec.setWidth_eq, decode_encode]

theorem decodeNumber_widerThanPort {w : Nat} (h : 8 ≤ w) : decodeNumber w = .error .widerThanPort :=
  if_neg (by omega)

/-- A table word that holds a command's code is that command; the word's upper bits are 0. -/
theorem decodeTableWord_encode (i : Instr) : decodeTableWord 8 (encode i).toNat = some i := by
  have hlt : (encode i).toNat < 2 ^ 8 := (encode i).isLt.trans (by decide)
  simp only [decodeTableWord, Nat.mod_eq_of_lt hlt, decodeNumber_encode]

theorem decodeTableWord_none {w : Nat} (h : 8 ≤ w) (hw : w < 256) : decodeTableWord 8 w = none := by
  have hlt : w < 2 ^ 8 := hw
  simp only [decodeTableWord, Nat.mod_eq_of_lt hlt, decodeNumber_widerThanPort h]

namespace Machine

variable {c : Params}

/-! ### The block with its input ports at other levels -/

/-- `m` with the input ports at the levels `p`. -/
def withPort (p : HostPort) (m : Framer c) : Framer c := { m with port := p }

@[simp] theorem withPort_fsm (p : HostPort) (m : Framer c) : (withPort p m).fsm = m.fsm := rfl
@[simp] theorem withPort_port (p : HostPort) (m : Framer c) : (withPort p m).port = p := rfl

theorem cmdReady_withPort {p : HostPort} {m : Framer c} (hrst : p.rst = m.port.rst) :
    cmdReady (withPort p m) = cmdReady m := by
  rw [cmdReady, withPort_port, hrst]
  rfl

theorem accept_withPort (p : HostPort) (i : Instr) (m : Framer c) :
    accept (rowOf c i) (withPort p m) = withPort p (accept (rowOf c i) m) := by
  cases i <;> rfl

theorem driveClk_withPort (p : HostPort) (l : Bit) (m : Framer c) :
    driveClk l (withPort p m) = withPort p (driveClk l m) := by
  cases hl : m.sclk && !l <;> simp [driveClk, withPort, hl]

theorem pulseEdges_withPort (p : HostPort) (m : Framer c) :
    pulseEdges (withPort p m) = withPort p (pulseEdges m) := by
  simp only [pulseEdges, driveClk_withPort]

theorem flushUpdate_withPort (p : HostPort) (m : Framer c) :
    flushUpdate (withPort p m) = withPort p (flushUpdate m) := by
  by_cases hk : (m.cnt + 1).toNat = c.p
  · rw [flushUpdate_last m hk, flushUpdate_last (withPort p m) hk]
    rfl
  · rw [flushUpdate_more m hk, flushUpdate_more (withPort p m) hk]
    rfl

theorem readUpdate_withPort (p : HostPort) (b : Bit) (m : Framer c) :
    readUpdate b (withPort p m) = withPort p (readUpdate b m) := by
  by_cases hk : (m.cnt + 1).toNat = c.w
  · rw [readUpdate_last m b hk, readUpdate_last (withPort p m) b hk]
    rfl
  · rw [readUpdate_more m b hk, readUpdate_more (withPort p m) b hk]
    rfl

theorem syncUpdate_withPort (p : HostPort) (i : Instr) (b : Bit) (m : Framer c) :
    syncUpdate (rowOf c i) b (withPort p m) = (syncUpdate (rowOf c i) b m).map (withPort p) := by
  by_cases hk : (nextRun b m.zrun).toNat = c.k
  · rw [syncUpdate_last _ m b hk, syncUpdate_last _ (withPort p m) b hk]
    cases i <;> rfl
  · rw [syncUpdate_more _ m b hk, syncUpdate_more _ (withPort p m) b hk]
    rfl

/-- No register update of a pulse reads an input port. -/
theorem phaseUpdate_withPort (p : HostPort) (i : Instr) (b : Bit) (m : Framer c) :
    phaseUpdate (rowOf c i) b (withPort p m) = (phaseUpdate (rowOf c i) b m).map (withPort p) := by
  unfold phaseUpdate
  rw [withPort_fsm]
  cases m.fsm with
  | idle => rfl
  | sync => exact syncUpdate_withPort p i b m
  | read => exact congrArg some (readUpdate_withPort p b m)
  | flush => exact congrArg some (flushUpdate_withPort p m)
  | pulse => rfl

theorem pulseOfPhase_withPort (p : HostPort) (i : Instr) (m : Framer c) :
    pulseOfPhase (rowOf c i) (withPort p m) = (pulseOfPhase (rowOf c i) m).map (withPort p) := by
  have hedges : pulseEdges (clearResp (withPort p m)) = withPort p (pulseEdges (clearResp m)) :=
    pulseEdges_withPort p (clearResp m)
  unfold pulseOfPhase
  rw [hedges]
  exact phaseUpdate_withPort p i _ _

/-- Of the input ports a step of a command reads `cancel_i` alone. -/
theorem commandStep_withPort {p : HostPort} {i : Instr} {m u : Framer c} (hcancel : p.cancel = m.port.cancel)
    (h : commandStep (rowOf c i) m = .next ⟨c, u⟩) :
    commandStep (rowOf c i) (withPort p m) = .next ⟨c, withPort p u⟩ := by
  by_cases hi : m.fsm = .idle
  · rw [commandStep_idle _ m hi] at h
    cases h
    rw [commandStep_idle _ (withPort p m) hi, accept_withPort]
  · by_cases hc : m.fsm = .sync ∧ m.port.cancel = true
    · rw [commandStep_cancel _ m hc.1 hc.2] at h
      cases h
      exact commandStep_cancel _ (withPort p m) hc.1 (hcancel.trans hc.2)
    · have hrun : m.fsm = .sync → m.port.cancel = false := fun hs => by simpa [hs] using hc
      rw [commandStep_pulse _ m hi hrun] at h
      rw [commandStep_pulse _ (withPort p m) hi fun hs => hcancel.trans (hrun hs), pulseOfPhase_withPort]
      cases hu : pulseOfPhase (rowOf c i) m with
      | none => rw [hu] at h; cases h
      | some v => rw [hu] at h; cases h; rfl

theorem resetStep_withPort {p : HostPort} {m : Framer c} (hmid : p.midPulse = m.port.midPulse) :
    resetStep (withPort p m) = withPort p (resetStep m) := by
  have hreset : resetMidPulse (withPort p m) = resetMidPulse m := by
    rw [resetMidPulse, withPort_port, hmid]
    rfl
  unfold resetStep
  rw [hreset]
  rfl

/-- A step at other port levels, where they reset and cancel alike, fault no read and select the same command, differs
in the ports alone. -/
theorem step_withPort {p : HostPort} {m t : Framer c} (hrst : p.rst = m.port.rst)
    (hmid : p.midPulse = m.port.midPulse) (hcancel : p.cancel = m.port.cancel)
    (hread : badRead (withPort p m) = false) (hcommand : currentCommand (withPort p m) = currentCommand m)
    (h : step ⟨c, m⟩ = .next ⟨c, t⟩) : ∃ q, step ⟨c, withPort p m⟩ = .next ⟨c, withPort q t⟩ := by
  obtain ⟨hl, -, ⟨hr, ht⟩ | ⟨hr, hs, i, u, hi, hu, ht⟩ | ⟨hr, hs, hi, ht⟩⟩ := step_cases h
  · cases ht
    rw [step_reset (withPort p m) hl hread (hrst.trans hr), resetStep_withPort hmid]
    exact ⟨_, rfl⟩
  · obtain ⟨cfg, u⟩ := u
    obtain rfl : cfg = c := commandStep_cfg hu
    cases ht
    rw [step_run (withPort p m) i hl hread (hrst.trans hr) hs (hcommand.trans hi), exec_eq,
      commandStep_withPort hcancel hu]
    exact ⟨_, rfl⟩
  · cases ht
    rw [step_idle (withPort p m) hl hread (hrst.trans hr) hs (hcommand.trans hi)]
    exact ⟨_, rfl⟩

/-! ### A block that is not ready (30_encoding R74, R75) -/

theorem cmdReady_eq_false_iff (m : Framer c) :
    cmdReady m = false ↔ m.fsm ≠ .idle ∨ m.respValid = true ∨ m.port.rst = true := by
  rw [← Bool.not_eq_true, cmdReady_iff, not_and_or, not_and_or, Bool.not_eq_false, Bool.not_eq_false,
    or_comm (a := m.port.rst = true)]

theorem accepts_unready {m : Framer c} (h : cmdReady m = false) : accepts m = false := by
  simp [accepts, h]

/-- A block that is not ready selects its command by its registers alone. -/
theorem currentCommand_unready {m : Framer c} (h : cmdReady m = false) :
    currentCommand m = if m.fsm = .idle then none else some (decode m.op) := by
  by_cases hi : m.fsm = .idle
  · rw [if_pos hi, currentCommand_none_iff]
    exact ⟨hi, accepts_unready h⟩
  · rw [if_neg hi, currentCommand_busy m hi]

/-- A pulse never writes `op` (10_state R31). -/
theorem phaseUpdate_op {i : Instr} {b : Bit} {m u : Framer c} (h : phaseUpdate (rowOf c i) b m = some u)
    (hi : m.fsm ≠ .idle) : u.op = m.op := by
  obtain ⟨-, rfl⟩ | ⟨-, -, rfl⟩ | ⟨-, -, rfl⟩ | ⟨-, -, rfl⟩ | ⟨-, -, f, hf, rfl⟩ | ⟨-, -, rfl⟩ | ⟨-, -, rfl⟩ :=
    phaseUpdate_cases h hi
  case inr.inr.inr.inr.inl => obtain ⟨-, rfl⟩ | ⟨-, rfl⟩ | ⟨-, rfl⟩ := syncEnd_cases hf <;> rfl
  all_goals rfl

theorem commandStep_busy_op {i : Instr} {m : Framer c} {t : State} (hi : m.fsm ≠ .idle)
    (h : commandStep (rowOf c i) m = .next t) : t.fr.op = m.op := by
  obtain ⟨hi', -⟩ | ⟨-, -, rfl⟩ | ⟨-, u, hu, rfl⟩ := commandStep_cases h
  · exact absurd hi' hi
  · rfl
  · exact (phaseUpdate_op hu (by simpa using hi)).trans (by simp)

/-- A step that accepts nothing keeps `op`, a reset apart (10_state R31). -/
theorem step_unready_op {m : Framer c} {t : State} (hn : cmdReady m = false) (hr : m.port.rst = false)
    (h : step ⟨c, m⟩ = .next t) : t.fr.op = m.op := by
  obtain ⟨-, -, ⟨hr', -⟩ | ⟨-, -, i, u, hi, hu, rfl⟩ | ⟨-, -, -, rfl⟩⟩ := step_cases h
  · simp [hr] at hr'
  · have hbusy : m.fsm ≠ .idle := by
      intro hf
      simp [currentCommand_unready hn, hf] at hi
    exact (commandStep_busy_op hbusy hu :)
  · rfl

/-- A presented command that is not accepted stays presented across the step (30_encoding R75). -/
theorem step_unready_holds {m : Framer c} {t : State} (hn : cmdReady m = false) (hv : m.port.cmdValid = true)
    (h : step ⟨c, m⟩ = .next t) : t.fr.port.cmdValid = true ∧ t.fr.port.cmdOp = m.port.cmdOp := by
  obtain ⟨a, ha, hp⟩ := step_port h
  obtain rfl : a = false := by simpa [accepts_unready hn] using ha
  rw [hp]
  exact HostPort_turn_holds _ _ hv

/-! ### A command line (30_encoding R84) -/

@[simp] theorem drive_rst (h : HostPort) (s : Issue) : (s.drive h).rst = h.rst := by
  cases s <;> rfl

/-- A presented code becomes the line in progress exactly in a boundary that accepts (30_encoding R74). -/
theorem afterAcceptance_presented (m : Framer c) (i : Instr) :
    (Issue.presented i).afterAcceptance m = if accepts m then .running i m.pulses else .presented i := rfl

/-- A boundary that accepts nothing moves no line on. -/
theorem afterAcceptance_of_not_accepts {m : Framer c} (s : Issue) (h : accepts m = false) :
    s.afterAcceptance m = s := by
  cases s with
  | free => rfl
  | presented i => rw [afterAcceptance_presented, h]; rfl
  | running i base => rfl

/-- The directives due leave the line in progress, the lines to come and the responses heard. -/
theorem due_keeps_runner (r : Runner) (m : Framer c) :
    (r.due m).1.todo = r.todo ∧ (r.due m).1.issue = r.issue ∧ (r.due m).1.heard = r.heard := by
  unfold Runner.due
  split <;> exact ⟨rfl, rfl, rfl⟩

/-- Lines that begin leave none in progress for a reset to end. -/
theorem Began_afterReset {r : Runner} {ls : List ProgramLine} (h : r.Began ls) (rst : Bool) :
    r.issue.afterReset rst = r.issue := by
  obtain ⟨ds, ⟨hi, -⟩ | ⟨i, hi, -⟩⟩ := h <;> rw [hi] <;> rfl

/-- Beginning lines changes no register. -/
theorem begins_respValid (r : Runner) (m : Framer c) : (r.begins m).2.respValid = m.respValid := by
  unfold Runner.begins
  split
  · obtain ⟨line, port, hm⟩ := beginLines_keeps r.heard r.todo m
    rw [hm]
  · rfl
  · rfl

/-- Nothing the host does at a boundary changes whether the block shows a response. -/
theorem boundary_respValid (r : Runner) (m : Framer c) : (r.boundary m).2.respValid = m.respValid := by
  obtain ⟨line, port, hm⟩ := due_keeps r m
  exact (begins_respValid ((r.due m).1.hear m) (r.due m).2).trans (by rw [hm])

/-- A host whose command is not answered yet waits: no line begins, and only a reset ends the line in progress
(70_reset_and_hazards R231). -/
theorem boundary_unanswered {r : Runner} {m : Framer c} {i : Instr} {base : Nat} (h : r.issue = .running i base)
    (hv : m.respValid = false) :
    (r.boundary m).1.todo = r.todo ∧ (r.boundary m).1.heard = r.heard ∧
    (r.boundary m).1.issue = if (r.boundary m).2.port.rst then .free else .running i base := by
  obtain ⟨htodo, hissue, hheard⟩ := due_keeps_runner r m
  have hhear : (r.due m).1.hear m = (r.due m).1 := by simp [Runner.hear, hissue, h, hears_not_yet i base hv]
  have hbegins := begins_busy (r := (r.due m).1) (r.due m).2 (by simp [hissue, h])
  simp [Runner.boundary, hhear, hbegins, htodo, hissue, hheard, h, Issue.afterReset]

/-- A host whose command is answered hears the response and begins the next lines. -/
theorem boundary_answered {r : Runner} {m : Framer c} {i : Instr} {base : Nat} (h : r.issue = .running i base)
    (hv : m.respValid = true) :
    (r.boundary m).1.heard = r.heard ++ [responseTo m i] ∧ (r.boundary m).1.Began r.todo := by
  obtain ⟨htodo, hissue, hheard⟩ := due_keeps_runner r m
  have hhear : (r.due m).1.hear m =
      { todo := r.todo, indented := [], issue := .free, heard := r.heard ++ [responseTo m i] } := by
    simp [Runner.hear, hissue, h, hears_running i base hv, Issue.afterHearing, hv, htodo, hheard]
  obtain ⟨hlines, hbegan⟩ := beginLines_cases (r.heard ++ [responseTo m i]) r.todo (r.due m).2
  simp only [Runner.boundary, hhear, Runner.begins, Began_afterReset hbegan]
  exact ⟨hlines, hbegan⟩

/-- The input ports as a program's host drives them while it presents `i`. -/
def presenting (i : Instr) (h : HostPort) : HostPort :=
  { Issue.drive h (.presented i) with readSample := false, plan := [] }

@[simp] theorem presenting_rst (i : Instr) (h : HostPort) : (presenting i h).rst = h.rst := rfl
@[simp] theorem presenting_cmdValid (i : Instr) (h : HostPort) : (presenting i h).cmdValid = true := rfl
@[simp] theorem presenting_cmdOp (i : Instr) (h : HostPort) : (presenting i h).cmdOp = encode i := rfl
@[simp] theorem presenting_readSample (i : Instr) (h : HostPort) : (presenting i h).readSample = false := rfl

theorem boundary_presenting {r : Runner} (m : Framer c) {i : Instr} (hp : r.issue = .presented i) :
    r.boundary m = (r, withPort (presenting i m.port) m) :=
  boundary_presented m hp

/-- A presented code is accepted by a ready block and by no other (30_encoding R74). -/
theorem accepts_presenting (m : Framer c) (i : Instr) :
    accepts (withPort (presenting i m.port) m) = cmdReady m := by
  rw [accepts, cmdReady_withPort (presenting_rst i m.port)]
  exact Bool.true_and _

/-- One step while a code is presented: a ready block accepts it, and otherwise it stays presented (30_encoding R74,
R75). -/
theorem Runner_step_presented {r q : Runner} {s t : State} {i : Instr} (hp : r.issue = .presented i)
    (h : r.step s = .next (q, t)) :
    q.todo = r.todo ∧ q.heard = r.heard ∧
    (cmdReady s.fr = true → q.issue = .running i s.fr.pulses) ∧
    (cmdReady s.fr = false → q.issue = .presented i ∧ t.fr.port.cmdValid = true ∧ t.fr.port.cmdOp = encode i) := by
  obtain ⟨hstep, rfl⟩ := Runner_step_cases h
  rw [boundary_presenting s.fr hp] at hstep ⊢
  simp only [hp, afterAcceptance_presented, accepts_presenting]
  refine ⟨trivial, trivial, fun hready => by rw [hready]; rfl, fun hready => ⟨by rw [hready]; rfl, ?_⟩⟩
  have hunready := (cmdReady_withPort (presenting_rst i s.fr.port)).trans hready
  exact step_unready_holds hunready (presenting_cmdValid i s.fr.port) hstep

/-- One step while the response is awaited. -/
theorem Runner_step_unanswered {r q : Runner} {s t : State} {i : Instr} {base : Nat}
    (hr : r.issue = .running i base) (hv : s.fr.respValid = false) (h : r.step s = .next (q, t)) :
    q.todo = r.todo ∧ q.heard = r.heard ∧
    q.issue = if (r.boundary s.fr).2.port.rst then .free else .running i base := by
  obtain ⟨-, rfl⟩ := Runner_step_cases h
  obtain ⟨htodo, hheard, hissue⟩ := boundary_unanswered hr hv
  refine ⟨htodo, hheard, (congrArg (Issue.afterAcceptance _) hissue).trans ?_⟩
  split <;> rfl

/-- One step at the boundary that shows the response: it accepts nothing, so the lines stay as the host began them. -/
theorem Runner_step_answered {r q : Runner} {s t : State} {i : Instr} {base : Nat}
    (hr : r.issue = .running i base) (hv : s.fr.respValid = true) (h : r.step s = .next (q, t)) :
    q.heard = r.heard ++ [responseTo s.fr i] ∧ q.Began r.todo := by
  obtain ⟨-, rfl⟩ := Runner_step_cases h
  have hready : cmdReady (r.boundary s.fr).2 = false :=
    (cmdReady_eq_false_iff _).mpr (.inr (.inl ((boundary_respValid r s.fr).trans hv)))
  rw [afterAcceptance_of_not_accepts _ (accepts_unready hready)]
  exact boundary_answered hr hv

/-- A step under a program whose block steps on. -/
theorem Runner_step_next {r q : Runner} {s t : State} {m : Framer s.cfg} (hb : r.boundary s.fr = (q, m))
    (h : step ⟨s.cfg, m⟩ = .next t) :
    r.step s = .next ({ q with issue := q.issue.afterAcceptance m }, t) := by
  simp only [Runner.step, hb, h]

/-- Acceptance writes the command's code to `op` (10_state R31). -/
@[simp] theorem accept_rowOf_op (i : Instr) (m : Framer c) : (accept (rowOf c i) m).op = encode i := by
  cases i <;> rfl

/-- An accepting block steps on, with the presented code in `op`. -/
theorem step_accepts {m : Framer c} (hl : c.Legal) (hb : badRead m = false) (hs : m.started = true)
    (ha : accepts m = true) : ∃ t : Framer c, step ⟨c, m⟩ = .next ⟨c, t⟩ ∧ t.op = m.port.cmdOp := by
  obtain ⟨-, hready⟩ := (Bool.and_eq_true _ _).mp ha
  obtain ⟨hf, hr, -⟩ := (cmdReady_iff m).mp hready
  rw [step_run m _ hl hb hr hs ((currentCommand_idle_some_iff hf _).mpr ⟨ha, rfl⟩), exec_eq,
    commandStep_idle _ m hf]
  exact ⟨_, rfl, (accept_rowOf_op _ m).trans (encode_decode m.port.cmdOp)⟩

/-- A program's presented command is accepted by a ready block in this very step. -/
theorem Runner_step_accepts {m : Framer c} {r : Runner} {i : Instr} (hl : c.Legal) (hs : m.started = true)
    (hready : cmdReady m = true) (hp : r.issue = .presented i) :
    ∃ t : Framer c, r.step ⟨c, m⟩ = .next ({ r with issue := .running i m.pulses }, ⟨c, t⟩) ∧ t.op = encode i := by
  have haccepts := (accepts_presenting m i).trans hready
  have hread : badRead (withPort (presenting i m.port) m) = false := by simp [badRead]
  obtain ⟨t, hstep, hop⟩ := step_accepts (m := withPort (presenting i m.port) m) hl hread hs haccepts
  refine ⟨t, ?_, hop⟩
  rw [Runner_step_next (s := ⟨c, m⟩) (boundary_presenting m hp) hstep, hp, afterAcceptance_presented, haccepts]
  rfl

/-! ### The obligations -/

/-- Settles O51: each way round by its own lemma; every command is well-formed. -/
theorem decodeAndEncodeAgree : Obligations.DecodeAndEncodeAgree :=
  ⟨fun i _ => decode_encode i, encode_decode⟩

/-- Settles O52: each row's number is its command's code, and a number above the port's three bits is too wide. -/
theorem opcodeMapRows : Obligations.OpcodeMapRows :=
  ⟨decodeTableWord_encode .rsvd0, decodeTableWord_encode .pulse, decodeTableWord_encode .flush,
    decodeTableWord_encode .sync, decodeTableWord_encode .read, decodeTableWord_encode .acquire,
    decodeTableWord_encode .startup, decodeTableWord_encode .rsvd7, fun _ => decodeTableWord_none⟩

/-- Settles O11: a block that is not ready selects its command by its registers, and a step reads nothing else of the
command port. -/
theorem unreadyBlockIgnoresCommandPort : Obligations.UnreadyBlockIgnoresCommandPort := by
  intro c m t v code hn h
  obtain ⟨-, hread, -⟩ := step_cases h
  have hn' : cmdReady (withPort { m.port with cmdValid := v, cmdOp := code } m) = false := hn
  have hcommand := (currentCommand_unready hn').trans (currentCommand_unready hn).symm
  obtain ⟨q, hq⟩ := step_withPort (p := { m.port with cmdValid := v, cmdOp := code }) rfl rfl rfl hread hcommand h
  exact ⟨withPort q t, hq, rfl⟩

/-- Settles O12: each of the three causes makes the block unready, and an unready block's step holds the command. -/
theorem unacceptedCommandStaysPresented : Obligations.UnacceptedCommandStaysPresented := by
  intro c m h
  have hn : cmdReady m = false := (cmdReady_eq_false_iff m).mpr h
  refine ⟨hn, accepts_unready hn, fun t ht hv => ?_⟩
  obtain ⟨hvalid, hop⟩ := step_unready_holds hn hv ht
  exact ⟨hvalid, hop, fun hr => step_unready_op hn hr ht⟩

/-- Settles O59: one step of the program's host for each place a command line can be in. -/
theorem commandLineWaitsForItsResponse : Obligations.CommandLineWaitsForItsResponse := by
  refine ⟨fun r q s t i h => ⟨fun hp => Runner_step_presented hp h, fun base hr hv => ?unanswered,
    fun base hr hv => Runner_step_answered hr hv h⟩, fun c m r i hl hs hr hf hv hp => ?ready⟩
  case unanswered =>
    obtain ⟨htodo, hheard, hissue⟩ := Runner_step_unanswered hr hv h
    exact ⟨htodo, hheard, fun hrst => by rw [hissue, hrst]; rfl, fun hrst => by rw [hissue, hrst]; rfl⟩
  case ready => exact Runner_step_accepts hl hs ((cmdReady_iff m).mpr ⟨hf, hr, hv⟩) hp

end Machine

end Sys2Proof
end

section
/-! PROOFS. The clock generator's statements (40_clock_generator R102 to R107): PULSE and FLUSH step by step and over a
whole burst, the clock line at every boundary, and the machine's invariant across a step. -/

namespace Sys2Proof.Machine

variable {c : Params}

/-! ### One pulse of a PULSE or FLUSH phase -/

theorem phaseUpdate_pulse (row : Row c) (b : Bit) {m : Framer c} (hf : m.fsm = .pulse) :
    phaseUpdate row b m = some (pulseUpdate b m) := by
  simp only [phaseUpdate, hf]

theorem phaseUpdate_flush (row : Row c) (b : Bit) {m : Framer c} (hf : m.fsm = .flush) :
    phaseUpdate row b m = some (flushUpdate m) := by
  simp only [phaseUpdate, hf]

theorem pulseOfPhase_pulse (row : Row c) {m : Framer c} (hf : m.fsm = .pulse) :
    pulseOfPhase row m =
      some (pulseUpdate (readData (pulseEdges (clearResp m))) (pulseEdges (clearResp m))) :=
  phaseUpdate_pulse row _ (by simpa using hf)

theorem pulseOfPhase_flush (row : Row c) {m : Framer c} (hf : m.fsm = .flush) :
    pulseOfPhase row m = some (flushUpdate (pulseEdges (clearResp m))) :=
  phaseUpdate_flush row _ (by simpa using hf)

/-- What a flush pulse leaves, whether or not it is the P-th: it reads no bit (40_clock_generator R101, R106). -/
theorem flushUpdate_keeps (m : Framer c) :
    (flushUpdate m).lastBit = m.lastBit ∧ (flushUpdate m).zrun = m.zrun ∧ (flushUpdate m).shreg = m.shreg ∧
    (flushUpdate m).sample = m.sample ∧ (flushUpdate m).sampleValid = m.sampleValid ∧
    (flushUpdate m).hold = m.hold ∧ (flushUpdate m).port = m.port ∧ (flushUpdate m).started = m.started := by
  by_cases hk : (m.cnt + 1).toNat = c.p
  · simp [flushUpdate_last m hk]
  · simp [flushUpdate_more m hk]

/-- A legal flush burst has a pulse (00_scope R8). -/
theorem p_pos_of_legal (hl : c.Legal) : 0 < c.p := by
  obtain ⟨-, -, hp⟩ := hl
  omega

/-- In a FLUSH phase the pulse counter does not wrap (10_state R33). -/
theorem flush_cnt_succ {m : Framer c} (h : m.cnt.toNat < c.p) : (m.cnt + 1).toNat = m.cnt.toNat + 1 :=
  cnt_succ m (lt_max_of_lt_right h)

/-- A step of a FLUSH phase, of whichever command (FLUSH or STARTUP) and at whatever `cancel_i`, is one flush pulse. -/
theorem exec_flushPhase (i : Instr) {m : Framer c} (hf : m.fsm = .flush) (hs : m.sclk = true) :
    exec i ⟨c, m⟩ = .next ⟨c, flushUpdate
      { m with respValid := false, line := m.line.shift, pulses := m.pulses + 1 }⟩ :=
  (exec_busy i m (by simp [hf]) (by simp [hf]) hs).trans (congrArg pulseOutcome (phaseUpdate_flush _ _ (by exact hf)))

/-- A pulse of a FLUSH phase that goes on. -/
theorem exec_flushPhase_more (i : Instr) {m : Framer c} (hf : m.fsm = .flush) (hs : m.sclk = true)
    (hk : m.cnt.toNat + 1 < c.p) :
    exec i ⟨c, m⟩ = .next ⟨c, { m with
      line := m.line.shift, pulses := m.pulses + 1, synced := false, cnt := m.cnt + 1, respValid := false }⟩ := by
  have hne : (m.cnt + 1).toNat ≠ c.p := by rw [flush_cnt_succ (by omega)]; omega
  rw [exec_flushPhase i hf hs, flushUpdate_more]
  exact hne

/-- The P-th pulse of a FLUSH phase. -/
theorem exec_flushPhase_last (i : Instr) {m : Framer c} (hf : m.fsm = .flush) (hs : m.sclk = true)
    (hk : m.cnt.toNat + 1 = c.p) :
    exec i ⟨c, m⟩ = .next ⟨c, { m with
      line := m.line.shift, pulses := m.pulses + 1, synced := false, cnt := m.cnt + 1,
      respStatus := .ok, respValid := true, fsm := .idle }⟩ := by
  have heq : (m.cnt + 1).toNat = c.p := by rw [flush_cnt_succ (by omega)]; omega
  rw [exec_flushPhase i hf hs, flushUpdate_last]
  exact heq

/-- The one pulse of a PULSE phase, at whatever `cancel_i`. -/
theorem exec_pulsePhase (i : Instr) {m : Framer c} (hf : m.fsm = .pulse) (hs : m.sclk = true) :
    exec i ⟨c, m⟩ = .next ⟨c, { m with
      line := m.line.shift, pulses := m.pulses + 1, lastBit := m.line.shift.level, synced := false,
      respStatus := .ok, respValid := true, fsm := .idle }⟩ :=
  (exec_busy i m (by simp [hf]) (by simp [hf]) hs).trans (congrArg pulseOutcome (phaseUpdate_pulse _ _ (by exact hf)))

theorem exec_idle (i : Instr) {m : Framer c} (hf : m.fsm = .idle) :
    exec i ⟨c, m⟩ = .next ⟨c, accept (rowOf c i) m⟩ := by
  rw [exec_eq, commandStep_idle _ m hf]

/-! ### A machine the host lets run -/

theorem Calm.badRead {m : Framer c} (h : Calm m) : badRead m = false := by
  simp [Machine.badRead, h.noRead.1]

/-- Every step leaves the first reset behind (70_reset_and_hazards R234). -/
theorem step_started {m : Framer c} {t : State} (h : step ⟨c, m⟩ = .next t) : t.fr.started = true := by
  obtain ⟨-, -, ⟨-, rfl⟩ | ⟨-, hs, i, u, -, hu, rfl⟩ | ⟨-, hs, -, rfl⟩⟩ := step_cases h
  · rfl
  · exact (commandStep_keeps_hold_started hu).2.trans hs
  · exact hs

/-- A step keeps the host's promise to let the machine run. -/
theorem Calm.next {m t : Framer c} (hm : Calm m) (h : step ⟨c, m⟩ = .next ⟨c, t⟩) : Calm t := by
  obtain ⟨accepted, -, hp⟩ := step_port h
  have hport : t.port = m.port.turn accepted m.sample.toNat := hp
  exact ⟨hm.legal, step_started h, hport ▸ HostPort_turn_noReset _ _ _ hm.noReset,
    hport ▸ HostPort_turn_noRead _ _ _ hm.noRead⟩

/-- A busy block that is let run takes one step of the command in `op`, and then the host sets the ports. -/
theorem Calm.step_busy {m u : Framer c} (hm : Calm m) (hi : m.fsm ≠ .idle)
    (h : exec (decode m.op) ⟨c, m⟩ = .next ⟨c, u⟩) :
    step ⟨c, m⟩ = .next ⟨c, withPort (u.port.turn false m.sample.toNat) u⟩ := by
  rw [step_run m _ hm.legal hm.badRead hm.noReset.1 hm.started (currentCommand_busy m hi), h, accepts_busy m hi]
  rfl

/-! ### The flush burst (40_clock_generator R106, R107) -/

/-- The rest of a FLUSH phase, `n + 1` pulses before its end: as many steps, each of which shifts the converter once. -/
theorem flushPhase_run (n : Nat) : ∀ m : Framer c, Calm m → m.fsm = .flush → m.sclk = true →
    m.cnt.toNat + (n + 1) = c.p →
    ∃ (cnt : BitVec c.cw) (port : HostPort), cnt.toNat = c.p ∧
      Sys2Proof.core.run (n + 1) ⟨c, m⟩ = .next ⟨c, { m with
        line := Converter.shifts (n + 1) m.line, pulses := m.pulses + (n + 1), synced := false, cnt := cnt,
        respStatus := .ok, respValid := true, fsm := .idle, port := port }⟩ := by
  induction n with
  | zero =>
    intro m hm hf hs hk
    have hstep := hm.step_busy (by simp [hf]) (exec_flushPhase_last _ hf hs hk)
    exact ⟨m.cnt + 1, _, (flush_cnt_succ (by omega)).trans hk, core_run_succ 0 hstep⟩
  | succ n ih =>
    intro m hm hf hs hk
    have hcnt : (m.cnt + 1).toNat = m.cnt.toNat + 1 := flush_cnt_succ (by omega)
    have hstep := hm.step_busy (by simp [hf]) (exec_flushPhase_more _ hf hs (by omega))
    obtain ⟨cnt, port, hend, hrun⟩ := ih _ (hm.next hstep) hf hs (by simp only [withPort]; omega)
    have hpulses : m.pulses + 1 + (n + 1) = m.pulses + (n + 1 + 1) := by omega
    refine ⟨cnt, port, hend, ?_⟩
    rw [core_run_succ (n + 1) hstep, hrun, ← hpulses]
    rfl

/-! ### The clock line (40_clock_generator R102) -/

theorem accept_rowOf_sclk (i : Instr) (m : Framer c) : (accept (rowOf c i) m).sclk = m.sclk := by
  cases i <;> rfl

/-- The register updates of a pulse leave the clock line where the pulse's rising edge left it. -/
theorem phaseUpdate_sclk {i : Instr} {b : Bit} {m u : Framer c} (h : phaseUpdate (rowOf c i) b m = some u)
    (hi : m.fsm ≠ .idle) : u.sclk = m.sclk := by
  obtain ⟨-, rfl⟩ | ⟨-, -, rfl⟩ | ⟨-, -, rfl⟩ | ⟨-, -, rfl⟩ | ⟨-, -, f, hf, rfl⟩ | ⟨-, -, rfl⟩ | ⟨-, -, rfl⟩ :=
    phaseUpdate_cases h hi
  case inr.inr.inr.inr.inl => obtain ⟨-, rfl⟩ | ⟨-, rfl⟩ | ⟨-, rfl⟩ := syncEnd_cases hf <;> rfl
  all_goals rfl

theorem commandStep_sclk_high {i : Instr} {m : Framer c} {t : State} (hs : m.sclk = true)
    (h : commandStep (rowOf c i) m = .next t) : t.fr.sclk = true := by
  obtain ⟨-, rfl⟩ | ⟨-, -, rfl⟩ | ⟨hi, u, hu, rfl⟩ := commandStep_cases h
  · exact (accept_rowOf_sclk i m).trans hs
  · exact hs
  · exact (phaseUpdate_sclk hu (by simpa using hi)).trans (pulseEdges_sclk _)

/-! ### What the invariant says of each phase -/

theorem phaseInv_pulse {m : Framer c} (hf : m.fsm = .pulse) : PhaseInv m ↔ decode m.op = .pulse := by
  simp only [PhaseInv, hf]

theorem phaseInv_flush {m : Framer c} (hf : m.fsm = .flush) :
    PhaseInv m ↔ (decode m.op = .flush ∨ decode m.op = .startup) ∧ m.cnt.toNat < c.p ∧
      (m.cnt.toNat ≠ 0 → m.synced = false) := by
  simp only [PhaseInv, hf]

theorem phaseInv_sync {m : Framer c} (hf : m.fsm = .sync) :
    PhaseInv m ↔ (decode m.op).startsWithSync = true ∧ m.zrun.toNat < c.k ∧
      (m.synced = true → m.zrun.toNat = 0) ∧ (m.zrun.toNat ≠ 0 → m.lastBit = false) := by
  simp only [PhaseInv, hf]

theorem phaseInv_read {m : Framer c} (hf : m.fsm = .read) :
    PhaseInv m ↔ (decode m.op = .read ∨ decode m.op = .acquire) ∧ m.cnt.toNat < c.w ∧
      m.shreg.toNat < 2 ^ m.cnt.toNat ∧ (m.cnt.toNat ≠ 0 → m.synced = false) := by
  simp only [PhaseInv, hf]

/-! ### The invariant, clause by clause -/

/-- The clauses of the machine's invariant that speak of no phase and no response: those a pulse may write between the
start of a phase and its end. Each is the clause of `RegsInv` of the same name (`RegsInv.data`). -/
structure DataInv (m : Framer c) : Prop where
  sclk_high : m.sclk = true
  hold_low : m.hold = false
  zrun_le : m.zrun.toNat ≤ c.k
  cnt_le : m.cnt.toNat ≤ max c.w c.p
  synced_bit : m.synced = true → m.lastBit = false
  synced_run : m.synced = true → m.zrun.toNat = 0 ∨ m.zrun.toNat = c.k
  sample_none : m.sampleValid = false → m.sample = 0

theorem RegsInv.data {m : Framer c} (h : RegsInv m) : DataInv m := { h with }

/-- A block that shows no response owes the invariant nothing on responses. -/
theorem DataInv.regsInv_silent {m : Framer c} (d : DataInv m) (hv : m.respValid = false) (hp : PhaseInv m) :
    RegsInv m :=
  { d with
    resp_idle := by simp [hv]
    status_illegal := by simp [hv]
    status_cancelled := by simp [hv]
    phase := hp }

/-- A response ends the phase; its status has to fit the command. -/
theorem DataInv.regsInv_respond {m : Framer c} (d : DataInv m) {st : Status}
    (hillegal : st = .illegal ↔ (decode m.op).reserved = true)
    (hcancelled : st = .cancelled → (decode m.op).startsWithSync = true) : RegsInv (respond st m) :=
  { d with
    resp_idle := fun _ => rfl
    status_illegal := fun _ => hillegal
    status_cancelled := fun _ => hcancelled
    phase := trivial }

theorem DataInv.regsInv_respond_ok {m : Framer c} (d : DataInv m) (hop : (decode m.op).reserved = false) :
    RegsInv (respond .ok m) :=
  d.regsInv_respond (by simp [hop]) (by simp)

theorem not_reserved_of_startsWithSync {i : Instr} (h : i.startsWithSync = true) : i.reserved = false := by
  revert h
  cases i <;> decide

/-- The host's turn writes no register. -/
theorem RegsInv.hostTurn {s : State} (h : RegsInv s.fr) (a : Bool) (n : Nat) : RegsInv (hostTurn a n s).fr :=
  { h with phase := h.phase }

/-- An edge with no `Respond` drops the response; the converter and the pulse count are no registers. -/
theorem RegsInv.silent {m : Framer c} (h : RegsInv m) (line : Converter) (pulses : Nat) :
    RegsInv { m with respValid := false, line := line, pulses := pulses } :=
  DataInv.regsInv_silent { h with } rfl h.phase

/-! ### The start of a phase keeps the invariant -/

theorem DataInv.regsInv_enterFlush {m : Framer c} (d : DataInv m) (hl : c.Legal) (hv : m.respValid = false)
    (hop : decode m.op = .flush ∨ decode m.op = .startup) : RegsInv (enterFlush m) := by
  have hp := p_pos_of_legal hl
  exact DataInv.regsInv_silent { d with cnt_le := by simp } hv ⟨hop, by simpa using hp, by simp⟩

theorem DataInv.regsInv_enterRead {m : Framer c} (d : DataInv m) (hl : c.Legal) (hv : m.respValid = false)
    (hop : decode m.op = .read ∨ decode m.op = .acquire) : RegsInv (enterRead m) := by
  obtain ⟨-, hw : 0 < c.w, -⟩ := hl
  exact DataInv.regsInv_silent { d with cnt_le := by simp } hv ⟨hop, by simpa using hw, by simp, by simp⟩

theorem DataInv.regsInv_enterSync {m : Framer c} (d : DataInv m) (hl : c.Legal) (hv : m.respValid = false)
    (hop : (decode m.op).startsWithSync = true) : RegsInv (enterSync m) := by
  obtain ⟨hk : 0 < c.k, -, -⟩ := hl
  exact DataInv.regsInv_silent { d with zrun_le := by simp, synced_run := by simp } hv
    ⟨hop, by simpa using hk, by simp, by simp⟩

/-- Acceptance starts the command's first phase, or answers a reserved code. -/
theorem RegsInv.accept {m : Framer c} (h : RegsInv m) (hl : c.Legal) (i : Instr) :
    RegsInv (accept (rowOf c i) m) := by
  have d : DataInv { clearResp m with op := (rowOf c i).code } := { h with }
  cases i with
  | rsvd0 => exact d.regsInv_respond (iff_of_true rfl rfl) nofun
  | pulse => exact DataInv.regsInv_silent { d with } rfl rfl
  | flush => exact d.regsInv_enterFlush hl rfl (.inl rfl)
  | sync => exact d.regsInv_enterSync hl rfl rfl
  | read => exact d.regsInv_enterRead hl rfl (.inl rfl)
  | acquire => exact d.regsInv_enterSync hl rfl rfl
  | startup => exact d.regsInv_enterSync hl rfl rfl
  | rsvd7 => exact d.regsInv_respond (iff_of_true rfl rfl) nofun

/-- The end of a SYNC phase answers SYNC, and starts the second phase of ACQUIRE and of STARTUP. -/
theorem DataInv.regsInv_syncEnd {m : Framer c} (d : DataInv m) (hl : c.Legal) (hv : m.respValid = false)
    {f : Framer c → Framer c} (hf : (rowOf c (decode m.op)).syncEnd = some f) : RegsInv (f m) := by
  obtain ⟨hop, rfl⟩ | ⟨hop, rfl⟩ | ⟨hop, rfl⟩ := syncEnd_cases hf
  · exact d.regsInv_respond_ok (congrArg Instr.reserved hop)
  · exact d.regsInv_enterRead hl hv (.inr hop)
  · exact d.regsInv_enterFlush hl hv (.inr hop)

/-! ### A pulse of each phase keeps the invariant -/

theorem RegsInv.pulseUpdate {m : Framer c} (h : RegsInv m) (hf : m.fsm = .pulse) (b : Bit) :
    RegsInv (pulseUpdate b m) := by
  have hop : decode m.op = .pulse := (phaseInv_pulse hf).mp h.phase
  exact DataInv.regsInv_respond_ok { h with synced_bit := by simp, synced_run := by simp }
    (congrArg Instr.reserved hop)

theorem RegsInv.flushUpdate {m : Framer c} (h : RegsInv m) (hf : m.fsm = .flush) (hv : m.respValid = false) :
    RegsInv (flushUpdate m) := by
  obtain ⟨hop, hlt, -⟩ := (phaseInv_flush hf).mp h.phase
  have hcnt := flush_cnt_succ hlt
  have d : DataInv { m with synced := false, cnt := m.cnt + 1 } :=
    { h with
      cnt_le := by simp only [hcnt]; omega
      synced_bit := by simp
      synced_run := by simp }
  by_cases hk : (m.cnt + 1).toNat = c.p
  · rw [flushUpdate_last m hk]
    exact d.regsInv_respond_ok (hop.elim (congrArg Instr.reserved) (congrArg Instr.reserved))
  · rw [flushUpdate_more m hk]
    have hlt' : (m.cnt + 1).toNat < c.p := by omega
    exact d.regsInv_silent hv ((phaseInv_flush (by exact hf)).mpr ⟨hop, hlt', fun _ => rfl⟩)

/-- A bit that leaves a run of zeros is a zero (41_frame_synchronizer R122). -/
theorem bit_of_nextRun_ne_zero {n : Nat} {b : Bit} {z : BitVec n} (h : (nextRun b z).toNat ≠ 0) : b = false := by
  cases b with
  | false => rfl
  | true => simp at h

theorem nextRun_le {m : Framer c} (b : Bit) (h : m.zrun.toNat < c.k) : (nextRun b m.zrun).toNat ≤ c.k := by
  cases b with
  | false => rw [nextRun_zero, zrun_succ m h]; exact h
  | true => simp

theorem RegsInv.syncUpdate {m u : Framer c} (h : RegsInv m) (hl : c.Legal) (hf : m.fsm = .sync)
    (hv : m.respValid = false) {b : Bit} (hu : syncUpdate (rowOf c (decode m.op)) b m = some u) : RegsInv u := by
  obtain ⟨hop, hlt, -⟩ := (phaseInv_sync hf).mp h.phase
  have hle := nextRun_le b hlt
  by_cases hk : (nextRun b m.zrun).toNat = c.k
  · rw [syncUpdate_last _ m b hk] at hu
    obtain ⟨f, hend, rfl⟩ := Option.map_eq_some_iff.mp hu
    have hb : b = false := bit_of_nextRun_ne_zero (by rw [hk]; exact Nat.ne_of_gt hl.1)
    have d : DataInv { m with lastBit := b, synced := true, zrun := nextRun b m.zrun } :=
      { h with zrun_le := hle, synced_bit := fun _ => hb, synced_run := fun _ => .inr hk }
    exact d.regsInv_syncEnd hl hv hend
  · rw [syncUpdate_more _ m b hk] at hu
    cases hu
    exact DataInv.regsInv_silent { h with zrun_le := hle, synced_bit := by simp, synced_run := by simp } hv
      ((phaseInv_sync (by exact hf)).mpr ⟨hop, Nat.lt_of_le_of_ne hle hk, by simp, bit_of_nextRun_ne_zero⟩)

theorem RegsInv.readUpdate {m : Framer c} (h : RegsInv m) (hf : m.fsm = .read) (hv : m.respValid = false) (b : Bit) :
    RegsInv (readUpdate b m) := by
  obtain ⟨hop, hlt, hshreg, -⟩ := (phaseInv_read hf).mp h.phase
  have hcnt : (m.cnt + 1).toNat = m.cnt.toNat + 1 := cnt_succ m (lt_max_of_lt_left hlt)
  have hle : (m.cnt + 1).toNat ≤ max c.w c.p := by omega
  by_cases hk : (m.cnt + 1).toNat = c.w
  · rw [readUpdate_last m b hk]
    have d : DataInv { m with
        lastBit := b, synced := false, shreg := shiftIn m.shreg b, cnt := m.cnt + 1,
        sample := shiftIn m.shreg b, sampleValid := true } :=
      { h with cnt_le := hle, synced_bit := by simp, synced_run := by simp, sample_none := by simp }
    exact d.regsInv_respond_ok (hop.elim (congrArg Instr.reserved) (congrArg Instr.reserved))
  · rw [readUpdate_more m b hk]
    have hlt' : (m.cnt + 1).toNat < c.w := by omega
    have hshift : (shiftIn m.shreg b).toNat < 2 ^ (m.cnt + 1).toNat := by
      have hb := b.toNat_le
      rw [hcnt, Nat.pow_succ, shiftIn_toNat_of_lt m.shreg b hshreg hlt]
      omega
    exact DataInv.regsInv_silent { h with cnt_le := hle, synced_bit := by simp, synced_run := by simp } hv
      ((phaseInv_read (by exact hf)).mpr ⟨hop, hlt', hshift, fun _ => rfl⟩)

/-- The register updates of a pulse of the command in progress keep the invariant, phase by phase. -/
theorem RegsInv.phaseUpdate {m u : Framer c} (h : RegsInv m) (hl : c.Legal) (hv : m.respValid = false) {b : Bit}
    (hu : phaseUpdate (rowOf c (decode m.op)) b m = some u) : RegsInv u := by
  unfold Machine.phaseUpdate at hu
  split at hu
  · cases hu; exact h
  · next hf => cases hu; exact h.pulseUpdate hf b
  · next hf => cases hu; exact h.flushUpdate hf hv
  · next hf => exact h.syncUpdate hl hf hv hu
  · next hf => cases hu; exact h.readUpdate hf hv b

/-! ### A step keeps the invariant -/

/-- The command in progress is one with a SYNC phase wherever the block is in one. -/
theorem RegsInv.startsWithSync {m : Framer c} (h : RegsInv m) (hf : m.fsm = .sync) :
    (decode m.op).startsWithSync = true :=
  ((phaseInv_sync hf).mp h.phase).1

/-- A cancel answers a command that has a SYNC phase (60_exceptions R202, R203). -/
theorem RegsInv.cancel {m : Framer c} (h : RegsInv m) (hf : m.fsm = .sync) :
    RegsInv (respond .cancelled (clearResp m)) :=
  DataInv.regsInv_respond { h with } (by simp [not_reserved_of_startsWithSync (h.startsWithSync hf)])
    fun _ => h.startsWithSync hf

/-- One step of the command accepted or in progress keeps the invariant. -/
theorem RegsInv.commandStep {i : Instr} {m : Framer c} {t : State} (h : RegsInv m) (hl : c.Legal)
    (hi : m.fsm ≠ .idle → i = decode m.op) (ht : commandStep (rowOf c i) m = .next t) : RegsInv t.fr := by
  rw [← exec_eq] at ht
  obtain ⟨-, rfl⟩ | ⟨hf, -, rfl⟩ | ⟨hbusy, u, rfl, hu⟩ := exec_cases h.sclk_high ht
  · exact h.accept hl i
  · exact h.cancel hf
  · obtain rfl := hi hbusy
    exact (h.silent _ _).phaseUpdate hl rfl hu

/-- A busy block runs the command in `op`. -/
theorem eq_decode_op_of_currentCommand {i : Instr} {m : Framer c} (h : currentCommand m = some i)
    (hi : m.fsm ≠ .idle) : i = decode m.op := by
  rw [currentCommand_busy m hi] at h
  exact (Option.some.inj h).symm

/-- A reset establishes the invariant, and every other step is of a block that has been reset and keeps it. -/
theorem step_regsInv {m : Framer c} {t : State} (hinv : m.started = true → RegsInv m)
    (h : step ⟨c, m⟩ = .next t) : RegsInv t.fr := by
  obtain ⟨hl, -, ⟨-, rfl⟩ | ⟨-, hs, i, u, hi, hu, rfl⟩ | ⟨-, hs, -, rfl⟩⟩ := step_cases h
  · exact (show RegsInv (resetStep m) from reset_regsInv c _ _).hostTurn _ _
  · exact ((hinv hs).commandStep hl (eq_decode_op_of_currentCommand hi) hu).hostTurn _ _
  · exact (show RegsInv (idleStep m) from (hinv hs).silent m.line m.pulses).hostTurn _ _

/-! ### The obligations -/

/-- Settles O41, case by case over what a step can do, with a lemma for each phase's pulse. -/
theorem everyStepKeepsTheInvariant : Obligations.EveryStepKeepsTheInvariant :=
  fun _ _ hinv h _ => step_regsInv hinv h

/-- Settles O45: a reset and a pulse's rising edge drive the clock high, and nothing else writes it. -/
theorem clockIsHighAtEveryBoundary : Obligations.ClockIsHighAtEveryBoundary := by
  intro c m t hhigh h
  obtain ⟨-, -, ⟨-, rfl⟩ | ⟨-, hs, i, u, -, hu, rfl⟩ | ⟨-, hs, -, rfl⟩⟩ := step_cases h
  · rfl
  · exact (commandStep_sclk_high (hhigh hs) hu :)
  · exact hhigh hs

/-- Settles O15: the acceptance by PULSE's row, the pulse by the PULSE phase's one update. -/
theorem pulseReadsOneBit : Obligations.PulseReadsOneBit :=
  fun _ _ => ⟨exec_idle .pulse, exec_pulsePhase .pulse⟩

/-- Settles O16: the acceptance by FLUSH's row, each pulse by the FLUSH phase's update on its side of P. -/
theorem flushCountsUnreadPulses : Obligations.FlushCountsUnreadPulses :=
  fun _ _ => ⟨exec_idle .flush, exec_flushPhase_more .flush, exec_flushPhase_last .flush⟩

/-- Settles O25: an acceptance, or the update of a PULSE phase after the pulse's two edges. -/
theorem pulseFrame : Obligations.PulseFrame := by
  intro c m t hf h
  rw [exec_eq] at h
  obtain ⟨-, rfl⟩ | ⟨hsync, -⟩ | ⟨hi, u, hu, rfl⟩ := commandStep_cases h
  · exact ⟨_, rfl, rfl, rfl, rfl, rfl, rfl, rfl, rfl, rfl⟩
  · simp [hsync] at hf
  · rw [pulseOfPhase_pulse _ (hf.resolve_left hi)] at hu
    cases hu
    exact ⟨_, rfl, by simp [pulseUpdate]⟩

/-- Settles O26: an acceptance, or the update of a FLUSH phase after the pulse's two edges. -/
theorem flushFrame : Obligations.FlushFrame := by
  intro c m t hf h
  rw [exec_eq] at h
  obtain ⟨-, rfl⟩ | ⟨hsync, -⟩ | ⟨hi, u, hu, rfl⟩ := commandStep_cases h
  · exact ⟨_, rfl, rfl, rfl, rfl, rfl, rfl, rfl, rfl, rfl⟩
  · simp [hsync] at hf
  · rw [pulseOfPhase_flush _ (hf.resolve_left hi)] at hu
    cases hu
    exact ⟨_, rfl, by simpa using flushUpdate_keeps (pulseEdges (clearResp m))⟩

/-- Settles O30: the run of a whole FLUSH phase, from `cnt` = 0. -/
theorem flushBurstIssuesExactlyP : Obligations.FlushBurstIssuesExactlyP := by
  intro c m hm hf hcnt hs
  obtain ⟨n, hn⟩ := Nat.exists_eq_add_one.mpr (p_pos_of_legal hm.legal)
  obtain ⟨cnt, port, hend, hrun⟩ := flushPhase_run n m hm hf hs (by simp [hcnt, hn])
  rw [← hn] at hrun
  exact ⟨_, hrun, rfl, rfl, rfl, rfl, hend, rfl, rfl, rfl, rfl, rfl, rfl, rfl⟩

end Sys2Proof.Machine
end

section
/-! PROOFS. The frame synchronizer's statements (41_frame_synchronizer R121 to R126): SYNC step by step, the number of
zeros a stream ends in, and the search for the marker over a whole SYNC phase. -/

namespace Sys2Proof.Machine

variable {c : Params}

/-! ### One pulse of a SYNC phase -/

theorem phaseUpdate_sync (row : Row c) (b : Bit) {m : Framer c} (hf : m.fsm = .sync) :
    phaseUpdate row b m = syncUpdate row b m := by
  simp only [phaseUpdate, hf]

theorem pulseOfPhase_sync (row : Row c) {m : Framer c} (hf : m.fsm = .sync) :
    pulseOfPhase row m = syncUpdate row (readData (pulseEdges (clearResp m))) (pulseEdges (clearResp m)) :=
  phaseUpdate_sync row _ (by simpa using hf)

/-- What a pulse of SYNC's phase leaves, whether or not it completes the marker. -/
theorem syncUpdate_sync_keeps {b : Bit} {m u : Framer c} (h : syncUpdate (rowOf c .sync) b m = some u) :
    u.cnt = m.cnt ∧ u.shreg = m.shreg ∧ u.sample = m.sample ∧ u.sampleValid = m.sampleValid ∧
      u.hold = m.hold ∧ u.port = m.port ∧ u.started = m.started := by
  by_cases hk : (nextRun b m.zrun).toNat = c.k
  · rw [syncUpdate_last _ m b hk] at h
    cases h
    exact ⟨rfl, rfl, rfl, rfl, rfl, rfl, rfl⟩
  · rw [syncUpdate_more _ m b hk] at h
    cases h
    exact ⟨rfl, rfl, rfl, rfl, rfl, rfl, rfl⟩

/-- The machine after a search pulse that reads `b` and leaves `synced`; where the pulse completes the marker, the
command's `SyncEnd()` is still to come (41_frame_synchronizer R121, R123). -/
def searchPulse (b : Bit) (synced : Bool) (m : Framer c) : Framer c :=
  { m with
    line := m.line.shift, pulses := m.pulses + 1, lastBit := b, synced := synced, zrun := nextRun b m.zrun,
    respValid := false }

section Pulse

variable {m : Framer c} {b : Bit} (hf : m.fsm = .sync) (hc : m.port.cancel = false) (hs : m.sclk = true)
  (hb : m.line.shift.level = b)

include hf hc hs hb

/-- A step of a SYNC phase that is not cancelled, of whichever command, is one search pulse. -/
theorem exec_syncPhase (i : Instr) :
    exec i ⟨c, m⟩ = pulseOutcome (syncUpdate (rowOf c i) b
      { m with respValid := false, line := m.line.shift, pulses := m.pulses + 1 }) := by
  subst hb
  rw [exec_busy i m (by simp [hf]) (fun _ => hc) hs, phaseUpdate_sync]
  exact hf

/-- A pulse of a SYNC phase that goes on. -/
theorem exec_syncPhase_more (i : Instr) (hk : (nextRun b m.zrun).toNat ≠ c.k) :
    exec i ⟨c, m⟩ = .next ⟨c, searchPulse b false m⟩ := by
  rw [exec_syncPhase hf hc hs hb i, syncUpdate_more]
  · rfl
  · exact hk

/-- The pulse of a SYNC phase that completes the marker: the command's `SyncEnd()` follows (43_serial_framer R164). -/
theorem exec_syncPhase_last {i : Instr} {f : Framer c → Framer c} (hend : (rowOf c i).syncEnd = some f)
    (hk : (nextRun b m.zrun).toNat = c.k) :
    exec i ⟨c, m⟩ = .next ⟨c, f (searchPulse b true m)⟩ := by
  rw [exec_syncPhase hf hc hs hb i, syncUpdate_last, hend]
  · rfl
  · exact hk

end Pulse

/-- A cancelled step of a SYNC phase makes no pulse (60_exceptions R203). -/
theorem exec_syncPhase_cancel (i : Instr) {m : Framer c} (hf : m.fsm = .sync) (hc : m.port.cancel = true) :
    exec i ⟨c, m⟩ = .next ⟨c, { m with respStatus := .cancelled, respValid := true, fsm := .idle }⟩ :=
  (exec_eq i m).trans (commandStep_cancel _ m hf hc)

/-! ### The end of a SYNC phase -/

/-- The three ends of a SYNC phase: SYNC's response, ACQUIRE's READ phase, STARTUP's FLUSH phase
(43_serial_framer R164). -/
theorem syncEnd_result {i : Instr} {f : Framer c → Framer c} (h : (rowOf c i).syncEnd = some f) (m : Framer c) :
    (i = .sync → (f m).fsm = .idle ∧ (f m).respValid = true ∧ (f m).respStatus = .ok) ∧
    (i = .acquire → (f m).fsm = .read) ∧ (i = .startup → (f m).fsm = .flush) := by
  obtain ⟨rfl, rfl⟩ | ⟨rfl, rfl⟩ | ⟨rfl, rfl⟩ := syncEnd_cases h <;> simp

theorem syncEnd_zrun {i : Instr} {f : Framer c → Framer c} (h : (rowOf c i).syncEnd = some f) (m : Framer c) :
    (f m).zrun = m.zrun := by
  obtain ⟨-, rfl⟩ | ⟨-, rfl⟩ | ⟨-, rfl⟩ := syncEnd_cases h <;> rfl

/-- A `SyncEnd()` neither reads nor writes the input ports. -/
theorem syncEnd_withPort {i : Instr} {f : Framer c → Framer c} (h : (rowOf c i).syncEnd = some f) (p : HostPort)
    (m : Framer c) : withPort p (f m) = f (withPort p m) := by
  obtain ⟨-, rfl⟩ | ⟨-, rfl⟩ | ⟨-, rfl⟩ := syncEnd_cases h <;> rfl

theorem syncEnd_port {i : Instr} {f : Framer c → Framer c} (h : (rowOf c i).syncEnd = some f) (m : Framer c) :
    (f m).port = m.port := by
  obtain ⟨-, rfl⟩ | ⟨-, rfl⟩ | ⟨-, rfl⟩ := syncEnd_cases h <;> rfl

/-! ### The bits the line shows, read from the last one -/

theorem Converter_shifts_succ_last (n : Nat) (v : Converter) :
    Converter.shifts (n + 1) v = (Converter.shifts n v).shift := by
  induction n generalizing v with
  | zero => rfl
  | succ n ih => exact ih v.shift

theorem Converter_shifts_driven (n : Nat) (v : Converter) : (Converter.shifts n v).driven = v.driven := by
  induction n generalizing v with
  | zero => rfl
  | succ n ih => exact ih v.shift

theorem Converter_upcoming_succ_last (n : Nat) (v : Converter) :
    Converter.upcoming (n + 1) v = Converter.upcoming n v ++ [(Converter.shifts n v).shift.level] := by
  induction n generalizing v with
  | zero => rfl
  | succ n ih => exact congrArg (v.shift.level :: ·) (ih v.shift)

theorem Converter_upcoming_take {i n : Nat} (h : i ≤ n) (v : Converter) :
    (Converter.upcoming n v).take i = Converter.upcoming i v := by
  induction i generalizing n v with
  | zero => rfl
  | succ i ih =>
    obtain ⟨k, rfl⟩ := Nat.exists_eq_add_one.mpr (Nat.zero_lt_of_lt h)
    exact congrArg (v.shift.level :: ·) (ih (by omega) v.shift)

/-! ### The zeros a stream ends in (41_frame_synchronizer R125) -/

@[simp] theorem trailingZeros_nil : trailingZeros [] = 0 := rfl

/-- The count follows `zrun`'s rule (41_frame_synchronizer R122). -/
@[simp] theorem trailingZeros_append_singleton (bits : List Bit) (b : Bit) :
    trailingZeros (bits ++ [b]) = if b then 0 else trailingZeros bits + 1 := by
  simp [trailingZeros, List.foldl_append]

theorem zerosEndAt_succ_succ (k n : Nat) (bits : List Bit) :
    ZerosEndAt (k + 1) (n + 1) bits ↔ bits[n]? = some false ∧ ZerosEndAt k n bits := by
  unfold ZerosEndAt
  constructor
  · rintro ⟨hle, hzero⟩
    exact ⟨hzero n (by omega) (by omega), by omega, fun i h1 h2 => hzero i (by omega) (by omega)⟩
  · rintro ⟨hlast, hle, hzero⟩
    refine ⟨by omega, fun i h1 h2 => ?_⟩
    obtain rfl | hi : i = n ∨ i < n := by omega
    · exact hlast
    · exact hzero i (by omega) hi

/-- The `k` bits ending at the `n`-th are all 0 exactly if the first `n` bits end in at least `k` zeros. -/
theorem zerosEndAt_iff_le_trailingZeros {k n : Nat} {bits : List Bit} (h : n ≤ bits.length) :
    ZerosEndAt k n bits ↔ k ≤ trailingZeros (bits.take n) := by
  induction n generalizing k with
  | zero => simp [ZerosEndAt]
  | succ n ih =>
    cases k with
    | zero => simp [ZerosEndAt]; omega
    | succ k =>
      rw [zerosEndAt_succ_succ, ih (by omega), List.take_add_one, List.getElem?_eq_getElem h]
      cases bits[n] <;> simp

theorem zerosEndAt_upcoming_iff {k i n : Nat} (h : i ≤ n) (v : Converter) :
    ZerosEndAt k i (Converter.upcoming n v) ↔ k ≤ trailingZeros (Converter.upcoming i v) := by
  rw [zerosEndAt_iff_le_trailingZeros (by simpa using h), Converter_upcoming_take h]

/-- As long as no K of the bits end in zeros there are fewer than K zeros at their end. -/
theorem trailingZeros_lt_of_not_zerosEndAt {k i n : Nat} {v : Converter} (hi : i ≤ n)
    (h : ¬ ZerosEndAt k i (Converter.upcoming n v)) : trailingZeros (Converter.upcoming i v) < k :=
  Nat.lt_of_not_le (mt (zerosEndAt_upcoming_iff hi v).mpr h)

theorem trailingZeros_upcoming_succ (n : Nat) (v : Converter) :
    trailingZeros (Converter.upcoming (n + 1) v) =
      if (Converter.shifts n v).shift.level then 0 else trailingZeros (Converter.upcoming n v) + 1 := by
  rw [Converter_upcoming_succ_last, trailingZeros_append_singleton]

/-- A line nothing drives shows no zero (10_state R26). -/
theorem trailingZeros_upcoming_undriven (n : Nat) {v : Converter} (h : v.driven = false) :
    trailingZeros (Converter.upcoming n v) = 0 := by
  cases n with
  | zero => rfl
  | succ n =>
    have hlevel := Converter_level_undriven (Converter.shifts n v).shift ((Converter_shifts_driven n v).trans h)
    rw [trailingZeros_upcoming_succ, if_pos hlevel]

/-- A search that completes does so at a first pulse after which the stream ends in K zeros, and the pulse reads a 0. -/
theorem CompletesAt.last_pulse {k n : Nat} {v : Converter} (hk : 0 < k) (h : CompletesAt k n (Converter.upcoming n v)) :
    ∃ j, n = j + 1 ∧ (∀ i ≤ j, trailingZeros (Converter.upcoming i v) < k) ∧
      (Converter.shifts j v).shift.level = false ∧ trailingZeros (Converter.upcoming n v) = k := by
  obtain ⟨hends, hfirst⟩ := h
  obtain ⟨j, rfl⟩ := Nat.exists_eq_add_one.mpr (hk.trans_le hends.1)
  have hbefore : ∀ i ≤ j, trailingZeros (Converter.upcoming i v) < k := fun i hi =>
    trailingZeros_lt_of_not_zerosEndAt (by omega) (hfirst i (by omega))
  have hlast : k ≤ trailingZeros (Converter.upcoming (j + 1) v) := (zerosEndAt_upcoming_iff le_rfl v).mp hends
  have hlevel : (Converter.shifts j v).shift.level = false := by
    by_contra hone
    rw [trailingZeros_upcoming_succ, if_pos (Bool.of_not_eq_false hone)] at hlast
    omega
  have hbound := hbefore j le_rfl
  rw [trailingZeros_upcoming_succ, hlevel, if_neg Bool.false_ne_true] at hlast
  refine ⟨j, rfl, hbefore, hlevel, ?_⟩
  rw [trailingZeros_upcoming_succ, hlevel, if_neg Bool.false_ne_true]
  omega

/-! ### The host during a phase -/

/-- The ports after the host's turns at the next `n` boundaries of a busy block, which shows the sample `sampleSeen`. -/
def HostPort.busyTurns (sampleSeen n : Nat) (h : HostPort) : HostPort := (HostPort.turn false sampleSeen)^[n] h

theorem HostPort_busyTurns_succ (sampleSeen n : Nat) (h : HostPort) :
    h.busyTurns sampleSeen (n + 1) = (h.busyTurns sampleSeen n).turn false sampleSeen :=
  Function.iterate_succ_apply' ..

theorem HostPort_busyTurns_noCancel (sampleSeen n : Nat) {h : HostPort} (hc : NoCancel h) :
    NoCancel (h.busyTurns sampleSeen n) :=
  Function.Iterate.rec NoCancel hc (HostPort_turn_noCancel false sampleSeen) n

/-! ### Runs -/

/-- A run of one step more that answers a next state splits after its first step. -/
theorem core_run_succ_next {n : Nat} {s t : State} (h : Sys2Proof.core.run (n + 1) s = .next t) :
    ∃ u, step s = .next u ∧ Sys2Proof.core.run n u = .next t := by
  cases hs : step s with
  | next u => rw [core_run_succ n hs] at h; exact ⟨u, rfl, h⟩
  | fault f =>
    have h' : Sys2Proof.core.step s = .fault f := hs
    simp only [Host.Core.run, h'] at h
    cases h
  | refused r =>
    have h' : Sys2Proof.core.step s = .refused r := hs
    simp only [Host.Core.run, h'] at h
    cases h

/-- The host's promise to let the machine run is kept through a run. -/
theorem Calm.run {n : Nat} {m t : Framer c} (hm : Calm m) (h : Sys2Proof.core.run n ⟨c, m⟩ = .next ⟨c, t⟩) :
    Calm t := by
  induction n generalizing m with
  | zero => cases h; exact hm
  | succ n ih =>
    obtain ⟨⟨d, u⟩, hstep, hrun⟩ := core_run_succ_next h
    obtain rfl : d = c := step_cfg hstep
    exact ih (hm.next hstep) hrun

/-! ### The search for the marker (41_frame_synchronizer R121, R125) -/

/-- The zero-run counter after `n` pulses of a SYNC phase. -/
def zrunAfter (c : Params) (n : Nat) (v : Converter) : BitVec c.zw :=
  BitVec.ofNat c.zw (trailingZeros (Converter.upcoming n v))

theorem nextRun_zrunAfter {n : Nat} {v : Converter} {b : Bit} (hb : (Converter.shifts n v).shift.level = b) :
    nextRun b (zrunAfter c n v) = zrunAfter c (n + 1) v := by
  unfold zrunAfter
  rw [trailingZeros_upcoming_succ, hb]
  cases b with
  | true => rfl
  | false => exact (BitVec.ofNat_add ..).symm

/-- Up to the marker the counter holds the number of zeros read without wrapping (41_frame_synchronizer R124). -/
theorem zrunAfter_toNat {n : Nat} {v : Converter} (h : trailingZeros (Converter.upcoming n v) ≤ c.k) :
    (zrunAfter c n v).toNat = trailingZeros (Converter.upcoming n v) := by
  rw [zrunAfter, BitVec.toNat_ofNat, Nat.mod_eq_of_lt (h.trans_lt (k_lt_two_pow_zw c))]

/-- The machine after `n` pulses of a SYNC phase that began at `m`: what they write, with the values of the registers
that the last of them set given (`last_bit`, `synced`, `resp_valid`). -/
def searched (n : Nat) (lastBit synced respValid : Bool) (m : Framer c) : Framer c :=
  { m with
    line := Converter.shifts n m.line, pulses := m.pulses + n, zrun := zrunAfter c n m.line, lastBit := lastBit,
    synced := synced, respValid := respValid, port := m.port.busyTurns m.sample.toNat n }

theorem searched_zero {m : Framer c} (hz : m.zrun = 0) : searched 0 m.lastBit m.synced m.respValid m = m := by
  cases m
  cases hz
  rfl

/-- One more pulse of the search and the host's turn after it. -/
theorem searched_succ {n : Nat} {m : Framer c} {b : Bit} (hb : (Converter.shifts n m.line).shift.level = b)
    (lastBit synced respValid synced' : Bool) :
    withPort ((m.port.busyTurns m.sample.toNat n).turn false m.sample.toNat)
      (searchPulse b synced' (searched n lastBit synced respValid m)) = searched (n + 1) b synced' false m := by
  rw [← HostPort_busyTurns_succ, searched, searchPulse, nextRun_zrunAfter hb, ← Converter_shifts_succ_last]
  rfl

section Search

variable {m : Framer c} (hm : Calm m) (hc : NoCancel m.port) (hf : m.fsm = .sync) (hz : m.zrun = 0) (hs : m.sclk = true)

include hm hc hf hz hs

/-- While the bits read end in fewer than K zeros the search goes on, one pulse a step. -/
theorem syncPhase_run_search (n : Nat) (h : ∀ i ≤ n, trailingZeros (Converter.upcoming i m.line) < c.k) :
    ∃ lastBit synced respValid,
      Sys2Proof.core.run n ⟨c, m⟩ = .next ⟨c, searched n lastBit synced respValid m⟩ := by
  induction n with
  | zero => exact ⟨m.lastBit, m.synced, m.respValid, by rw [searched_zero hz, core_run_zero]⟩
  | succ n ih =>
    obtain ⟨lastBit, synced, respValid, hrun⟩ := ih fun i hi => h i (by omega)
    have hcancel := (HostPort_busyTurns_noCancel m.sample.toNat n hc).1
    obtain ⟨b, hb⟩ : ∃ b, (Converter.shifts n m.line).shift.level = b := ⟨_, rfl⟩
    have hmore : (nextRun b (zrunAfter c n m.line)).toNat ≠ c.k := by
      have hlt := h (n + 1) le_rfl
      rw [nextRun_zrunAfter hb, zrunAfter_toNat hlt.le]
      exact hlt.ne
    have hstep := (hm.run hrun).step_busy (by simp [searched, hf])
      (exec_syncPhase_more (m := searched n lastBit synced respValid m) hf hcancel hs hb _ hmore)
    refine ⟨b, false, false, ?_⟩
    rw [core_run_add n 1 hrun, core_run_succ 0 hstep, core_run_zero, ← searched_succ hb lastBit synced respValid]
    rfl

/-- A search that completes at its n-th pulse takes n steps, the last of which ends the SYNC phase. -/
theorem syncPhase_run_completes {n : Nat} {f : Framer c → Framer c}
    (hend : (rowOf c (decode m.op)).syncEnd = some f) (h : CompletesAt c.k n (Converter.upcoming n m.line)) :
    Sys2Proof.core.run n ⟨c, m⟩ = .next ⟨c, f (searched n false true false m)⟩ := by
  obtain ⟨j, rfl, hbefore, hb, hzeros⟩ := h.last_pulse hm.legal.1
  obtain ⟨lastBit, synced, respValid, hrun⟩ := syncPhase_run_search hm hc hf hz hs j hbefore
  have hcancel := (HostPort_busyTurns_noCancel m.sample.toNat j hc).1
  have hlast : (nextRun false (zrunAfter c j m.line)).toNat = c.k := by
    rw [nextRun_zrunAfter hb, zrunAfter_toNat hzeros.le, hzeros]
  have hstep := (hm.run hrun).step_busy (by simp [searched, hf])
    (exec_syncPhase_last (m := searched j lastBit synced respValid m) hf hcancel hs hb hend hlast)
  rw [syncEnd_port hend, syncEnd_withPort hend] at hstep
  rw [core_run_add j 1 hrun, core_run_succ 0 hstep, core_run_zero, ← searched_succ hb lastBit synced respValid]
  rfl

end Search

/-! ### The obligations -/

/-- Settles O17: the acceptance by SYNC's row, the cancel before any pulse, and each pulse by the SYNC phase's update on
its side of K. -/
theorem syncSearchesForTheMarker : Obligations.SyncSearchesForTheMarker := by
  intro c m
  refine ⟨exec_idle .sync, exec_syncPhase_cancel .sync, fun hf hc hs hk hb => ?one, fun hf hc hs hb hk => ?zero,
    fun hf hc hs hb hk => ?marker⟩
  case one =>
    have hrun : (nextRun true m.zrun).toNat ≠ c.k := by simp; omega
    exact exec_syncPhase_more hf hc hs hb .sync hrun
  case zero =>
    have hrun : (nextRun false m.zrun).toNat ≠ c.k := by rw [nextRun_zero, zrun_succ m (by omega)]; omega
    exact exec_syncPhase_more hf hc hs hb .sync hrun
  case marker =>
    have hrun : (nextRun false m.zrun).toNat = c.k := by rw [nextRun_zero, zrun_succ m (by omega)]; omega
    exact exec_syncPhase_last (i := .sync) hf hc hs hb rfl hrun

/-- Settles O27: an acceptance, a cancel, or the update of a SYNC phase after the pulse's two edges. -/
theorem syncFrame : Obligations.SyncFrame := by
  intro c m t hf h
  rw [exec_eq] at h
  obtain ⟨-, rfl⟩ | ⟨-, -, rfl⟩ | ⟨hi, u, hu, rfl⟩ := commandStep_cases h
  · exact ⟨_, rfl, rfl, rfl, rfl, rfl, rfl, rfl, rfl⟩
  · exact ⟨_, rfl, rfl, rfl, rfl, rfl, rfl, rfl, rfl⟩
  · rw [pulseOfPhase_sync _ (hf.resolve_left hi)] at hu
    exact ⟨u, rfl, by simpa using syncUpdate_sync_keeps hu⟩

/-- Settles O34: the search's run up to the marker, and the run that ends with it. -/
theorem syncCompletesAtTheFirstMarker : Obligations.SyncCompletesAtTheFirstMarker := by
  intro c m hm hc hf hz hs hop
  constructor
  · intro j hnone
    have hbefore : ∀ i ≤ j, trailingZeros (Converter.upcoming i m.line) < c.k := fun i hi =>
      trailingZeros_lt_of_not_zerosEndAt hi (hnone i hi)
    obtain ⟨lastBit, synced, respValid, hrun⟩ := syncPhase_run_search hm hc hf hz hs j hbefore
    exact ⟨_, hrun, hf, zrunAfter_toNat (hbefore j le_rfl).le, rfl⟩
  · intro n hcomplete
    obtain ⟨f, hend⟩ := Option.isSome_iff_exists.mp ((syncEnd_isSome (c := c) (decode m.op)).trans hop)
    obtain ⟨-, -, -, -, hzeros⟩ := hcomplete.last_pulse hm.legal.1
    obtain ⟨hsync, hacquire, hstartup⟩ := syncEnd_result hend (searched n false true false m)
    obtain ⟨-, -, hsynced, hpulses⟩ := syncEnd_keeps hend (searched n false true false m)
    obtain ⟨hline, hlast, -, -⟩ := syncEnd_keeps_data hend (searched n false true false m)
    have hzrun := (congrArg BitVec.toNat (syncEnd_zrun hend (searched n false true false m))).trans
      ((zrunAfter_toNat hzeros.le).trans hzeros)
    exact ⟨_, syncPhase_run_completes hm hc hf hz hs hend hcomplete, hsync, hacquire, hstartup, hsynced, hzrun, hlast,
      hpulses, hline⟩

/-- Settles O35: neither kind of stream ever ends in K zeros, so the search goes on after any number of pulses. -/
theorem syncHasNoTimeout : Obligations.SyncHasNoTimeout := by
  intro c m hm hc hf hz hs _ hstream n
  have hbefore : ∀ i, trailingZeros (Converter.upcoming i m.line) < c.k := by
    intro i
    obtain hundriven | hnone := hstream
    · rw [trailingZeros_upcoming_undriven i hundriven]
      exact hm.legal.1
    · exact trailingZeros_lt_of_not_zerosEndAt le_rfl (hnone i)
  obtain ⟨lastBit, synced, respValid, hrun⟩ := syncPhase_run_search hm hc hf hz hs n fun i _ => hbefore i
  exact ⟨_, hrun, hf, (busy_iff _).mpr (by simp [searched, hf]), rfl⟩

end Sys2Proof.Machine
end

section
/-! PROOFS. The bit collector's statements (42_adc_bit_collector R141 to R145): READ step by step, the most significant
first value of a stream, and the run of a whole READ phase. -/

namespace Sys2Proof.Machine

variable {c : Params}

/-! ### One pulse of a READ phase -/

theorem phaseUpdate_read (row : Row c) (b : Bit) {m : Framer c} (hf : m.fsm = .read) :
    phaseUpdate row b m = some (readUpdate b m) := by
  simp only [phaseUpdate, hf]

theorem pulseOfPhase_read (row : Row c) {m : Framer c} (hf : m.fsm = .read) :
    pulseOfPhase row m = some (readUpdate (readData (pulseEdges (clearResp m))) (pulseEdges (clearResp m))) :=
  phaseUpdate_read row _ (by simpa using hf)

/-- What a READ pulse leaves: the sample too, unless it is the W-th, which ends the phase. -/
theorem readUpdate_keeps (b : Bit) (m : Framer c) :
    (readUpdate b m).zrun = m.zrun ∧ (readUpdate b m).hold = m.hold ∧ (readUpdate b m).port = m.port ∧
    (readUpdate b m).started = m.started ∧
    ((readUpdate b m).fsm = .read →
      (readUpdate b m).sample = m.sample ∧ (readUpdate b m).sampleValid = m.sampleValid) := by
  by_cases hk : (m.cnt + 1).toNat = c.w
  · simp [readUpdate_last m b hk]
  · simp [readUpdate_more m b hk]

/-- In a READ phase the pulse counter does not wrap (10_state R33). -/
theorem read_cnt_succ {m : Framer c} (h : m.cnt.toNat < c.w) : (m.cnt + 1).toNat = m.cnt.toNat + 1 :=
  cnt_succ m (lt_max_of_lt_left h)

/-- The machine after a READ pulse; where the pulse is the W-th, the commit is still to come. -/
def readPulse (m : Framer c) : Framer c :=
  { m with
    line := m.line.shift, pulses := m.pulses + 1, lastBit := m.line.shift.level, synced := false,
    shreg := shiftIn m.shreg m.line.shift.level, cnt := m.cnt + 1, respValid := false }

/-- The end of a READ phase: the collected bits become the sample, with the OK response. -/
def commitSample (m : Framer c) : Framer c :=
  respond .ok { m with sample := m.shreg, sampleValid := true }

/-- A step of a READ phase, of whichever command (READ or ACQUIRE) and at whatever `cancel_i`, is one READ pulse. -/
theorem exec_readPhase (i : Instr) {m : Framer c} (hf : m.fsm = .read) (hs : m.sclk = true) :
    exec i ⟨c, m⟩ = .next ⟨c, readUpdate m.line.shift.level
      { m with respValid := false, line := m.line.shift, pulses := m.pulses + 1 }⟩ :=
  (exec_busy i m (by simp [hf]) (by simp [hf]) hs).trans (congrArg pulseOutcome (phaseUpdate_read _ _ (by exact hf)))

/-- A pulse of a READ phase that goes on. -/
theorem exec_readPhase_more (i : Instr) {m : Framer c} (hf : m.fsm = .read) (hs : m.sclk = true)
    (hk : m.cnt.toNat + 1 < c.w) : exec i ⟨c, m⟩ = .next ⟨c, readPulse m⟩ := by
  have hne : (m.cnt + 1).toNat ≠ c.w := by rw [read_cnt_succ (by omega)]; omega
  rw [exec_readPhase i hf hs, readUpdate_more]
  · rfl
  · exact hne

/-- The W-th pulse of a READ phase. -/
theorem exec_readPhase_last (i : Instr) {m : Framer c} (hf : m.fsm = .read) (hs : m.sclk = true)
    (hk : m.cnt.toNat + 1 = c.w) : exec i ⟨c, m⟩ = .next ⟨c, commitSample (readPulse m)⟩ := by
  have heq : (m.cnt + 1).toNat = c.w := by rw [read_cnt_succ (by omega)]; exact hk
  rw [exec_readPhase i hf hs, readUpdate_last]
  · rfl
  · exact heq

/-! ### The value of bits read most significant first (42_adc_bit_collector R144, R145) -/

@[simp] theorem msbValue_nil : msbValue [] = 0 := rfl

/-- The first bit has the greatest weight. -/
theorem msbValue_cons (b : Bit) (bits : List Bit) :
    msbValue (b :: bits) = 2 ^ bits.length * b.toNat + msbValue bits := by
  simp only [msbValue, List.length_cons, Finset.sum_range_succ', List.getD_cons_succ, List.getD_cons_zero,
    Nat.add_sub_cancel, Nat.sub_zero]
  rw [Nat.add_comm, Nat.mul_comm]
  congr 1
  refine Finset.sum_congr rfl fun i _ => ?_
  rw [Nat.add_comm i 1, ← Nat.sub_sub]

/-- The value follows `shreg`'s rule (42_adc_bit_collector R141). -/
theorem msbValue_append_singleton (bits : List Bit) (b : Bit) :
    msbValue (bits ++ [b]) = 2 * msbValue bits + b.toNat := by
  induction bits with
  | nil => simp [msbValue_cons]
  | cons a bits ih =>
    rw [List.cons_append, msbValue_cons, ih, msbValue_cons, List.length_append, List.length_singleton]
    ring

theorem msbValue_lt (bits : List Bit) : msbValue bits < 2 ^ bits.length := by
  induction bits with
  | nil => simp
  | cons b bits ih =>
    have hb : 2 ^ bits.length * b.toNat ≤ 2 ^ bits.length * 1 := Nat.mul_le_mul_left _ b.toNat_le
    rw [msbValue_cons, List.length_cons, Nat.pow_succ]
    omega

/-- The i-th bit is bit `n - 1 - i` of the value of n bits. -/
theorem getElem?_eq_testBit_msbValue {bits : List Bit} {i : Nat} (h : i < bits.length) :
    bits[i]? = some ((msbValue bits).testBit (bits.length - 1 - i)) := by
  induction bits generalizing i with
  | nil => simp at h
  | cons b bits ih =>
    rw [msbValue_cons, Nat.testBit_two_pow_mul_add _ (msbValue_lt bits)]
    cases i with
    | zero => cases b <;> simp
    | succ i =>
      have hi : i < bits.length := by simpa using h
      have hpos : (b :: bits).length - 1 - (i + 1) = bits.length - 1 - i := by simp; omega
      rw [List.getElem?_cons_succ, ih hi, hpos, if_pos (by omega)]

/-- Bits of one length that have one value agree bit by bit (42_adc_bit_collector R145). -/
theorem msbValue_injective {bits bits' : List Bit} (hlen : bits.length = bits'.length)
    (hval : msbValue bits = msbValue bits') : bits = bits' := by
  refine List.ext_getElem? fun i => ?_
  by_cases hi : i < bits.length
  · rw [getElem?_eq_testBit_msbValue hi, getElem?_eq_testBit_msbValue (hlen ▸ hi), hval, hlen]
  · rw [List.getElem?_eq_none (by omega), List.getElem?_eq_none (by omega)]

@[simp] theorem msbSpelling_length (w raw : Nat) : (msbSpelling w raw).length = w := by
  induction w with
  | zero => rfl
  | succ w ih => exact congrArg (· + 1) ih

/-- The spelling in w bits is that of the low w bits of the number. -/
theorem msbValue_msbSpelling (w raw : Nat) : msbValue (msbSpelling w raw) = raw % 2 ^ w := by
  induction w with
  | zero => simp [msbSpelling, Nat.mod_one]
  | succ w ih =>
    rw [msbSpelling, msbValue_cons, ih, msbSpelling_length, Nat.toNat_testBit, Nat.mod_pow_succ, Nat.add_comm]

/-! ### The run of a READ phase (42_adc_bit_collector R142, R143) -/

/-- The shift register after `n` pulses of a READ phase. -/
def shregAfter (c : Params) (n : Nat) (v : Converter) : BitVec c.w :=
  BitVec.ofNat c.w (msbValue (Converter.upcoming n v))

theorem shiftIn_shregAfter (n : Nat) (v : Converter) :
    shiftIn (shregAfter c n v) (Converter.shifts n v).shift.level = shregAfter c (n + 1) v := by
  refine BitVec.eq_of_toNat_eq ?_
  rw [shiftIn_toNat, shregAfter, shregAfter, BitVec.toNat_ofNat, BitVec.toNat_ofNat, Converter_upcoming_succ_last,
    msbValue_append_singleton]
  simp [Nat.add_mod, Nat.mul_mod]

/-- Up to the W-th pulse the register holds every bit read (42_adc_bit_collector R142). -/
theorem shregAfter_toNat {n : Nat} (h : n ≤ c.w) (v : Converter) :
    (shregAfter c n v).toNat = msbValue (Converter.upcoming n v) := by
  have hlt := msbValue_lt (Converter.upcoming n v)
  rw [Converter_upcoming_length] at hlt
  rw [shregAfter, BitVec.toNat_ofNat, Nat.mod_eq_of_lt (hlt.trans_le (Nat.pow_le_pow_right (by omega) h))]

theorem ofNat_cnt_toNat {n : Nat} (h : n ≤ c.w) : (BitVec.ofNat c.cw n).toNat = n := by
  rw [BitVec.toNat_ofNat, Nat.mod_eq_of_lt ((le_max_of_le_left h).trans_lt (max_lt_two_pow_cw c))]

/-- The machine after `n` pulses of a READ phase that began at `m`: what they write, with the values of the registers
that the last of them set given (`last_bit`, `synced`, `resp_valid`). -/
def collected (n : Nat) (lastBit synced respValid : Bool) (m : Framer c) : Framer c :=
  { m with
    line := Converter.shifts n m.line, pulses := m.pulses + n, shreg := shregAfter c n m.line,
    cnt := BitVec.ofNat c.cw n, lastBit := lastBit, synced := synced, respValid := respValid,
    port := m.port.busyTurns m.sample.toNat n }

theorem collected_zero {m : Framer c} (hcnt : m.cnt = 0) (hsh : m.shreg = 0) :
    collected 0 m.lastBit m.synced m.respValid m = m := by
  cases m
  cases hcnt
  cases hsh
  rfl

/-- One more READ pulse and the host's turn after it. -/
theorem collected_succ (n : Nat) (lastBit synced respValid : Bool) (m : Framer c) :
    withPort ((m.port.busyTurns m.sample.toNat n).turn false m.sample.toNat)
      (readPulse (collected n lastBit synced respValid m)) =
    collected (n + 1) (Converter.shifts n m.line).shift.level false false m := by
  have hcnt : BitVec.ofNat c.cw n + 1 = BitVec.ofNat c.cw (n + 1) := (BitVec.ofNat_add ..).symm
  rw [← HostPort_busyTurns_succ, collected, readPulse, shiftIn_shregAfter, hcnt, ← Converter_shifts_succ_last]
  rfl

section Collect

variable {m : Framer c} (hm : Calm m) (hf : m.fsm = .read) (hcnt : m.cnt = 0) (hsh : m.shreg = 0) (hs : m.sclk = true)

include hm hf hcnt hsh hs

/-- Before the W-th pulse the phase goes on, one pulse a step. -/
theorem readPhase_run_collects {n : Nat} (hn : n < c.w) :
    ∃ lastBit synced respValid,
      Sys2Proof.core.run n ⟨c, m⟩ = .next ⟨c, collected n lastBit synced respValid m⟩ := by
  induction n with
  | zero => exact ⟨m.lastBit, m.synced, m.respValid, by rw [collected_zero hcnt hsh, core_run_zero]⟩
  | succ n ih =>
    obtain ⟨lastBit, synced, respValid, hrun⟩ := ih (by omega)
    have hmore : (BitVec.ofNat c.cw n).toNat + 1 < c.w := by rwa [ofNat_cnt_toNat (by omega)]
    have hstep := (hm.run hrun).step_busy (by simp [collected, hf])
      (exec_readPhase_more (m := collected n lastBit synced respValid m) _ hf hs hmore)
    refine ⟨(Converter.shifts n m.line).shift.level, false, false, ?_⟩
    rw [core_run_add n 1 hrun, core_run_succ 0 hstep, core_run_zero, ← collected_succ n lastBit synced respValid]
    rfl

/-- The W-th step commits what the W pulses collected and ends the phase. -/
theorem readPhase_run_commits :
    ∃ lastBit, Sys2Proof.core.run c.w ⟨c, m⟩ = .next ⟨c, commitSample (collected c.w lastBit false false m)⟩ := by
  obtain ⟨n, hn⟩ := Nat.exists_eq_add_one.mpr hm.legal.2.1
  obtain ⟨lastBit, synced, respValid, hrun⟩ := readPhase_run_collects hm hf hcnt hsh hs (n := n) (by omega)
  have hlast : (BitVec.ofNat c.cw n).toNat + 1 = c.w := by rw [ofNat_cnt_toNat (by omega), hn]
  have hstep := (hm.run hrun).step_busy (by simp [collected, hf])
    (exec_readPhase_last (m := collected n lastBit synced respValid m) _ hf hs hlast)
  refine ⟨(Converter.shifts n m.line).shift.level, ?_⟩
  rw [hn, core_run_add n 1 hrun, core_run_succ 0 hstep, core_run_zero, ← collected_succ n lastBit synced respValid]
  rfl

/-- Framed or not, the phase takes W pulses (42_adc_bit_collector R143, R148). -/
theorem readPhase_takesWPulses : ReadTakesWPulses m := by
  constructor
  · intro j hj
    obtain ⟨lastBit, synced, respValid, hrun⟩ := readPhase_run_collects hm hf hcnt hsh hs hj
    exact ⟨_, hrun, hf, rfl, rfl⟩
  · obtain ⟨lastBit, hrun⟩ := readPhase_run_commits hm hf hcnt hsh hs
    exact ⟨_, hrun, rfl, rfl, rfl, rfl, rfl, ofNat_cnt_toNat le_rfl, rfl, rfl⟩

/-- The sample committed is the value of the W bits the line showed (42_adc_bit_collector R144). -/
theorem readPhase_commitsItsBits : ReadCommitsItsBits m := by
  obtain ⟨lastBit, hrun⟩ := readPhase_run_commits hm hf hcnt hsh hs
  have hsample := shregAfter_toNat (c := c) le_rfl m.line
  refine ⟨_, hrun, rfl, hsample, fun i hi => ?_⟩
  have hbit : (shregAfter c c.w m.line).getLsbD (c.w - 1 - i) =
      (msbValue (Converter.upcoming c.w m.line)).testBit (c.w - 1 - i) := by rw [← BitVec.testBit_toNat, hsample]
  rw [getElem?_eq_testBit_msbValue (by simpa using hi), Converter_upcoming_length, ← hbit]
  rfl

end Collect

/-! ### The obligations -/

/-- Settles O18: the acceptance by READ's row, each pulse by the READ phase's update on its side of W. -/
theorem readShiftsInAndCommits : Obligations.ReadShiftsInAndCommits :=
  fun _ _ => ⟨exec_idle .read, exec_readPhase_more .read, exec_readPhase_last .read⟩

/-- Settles O28: an acceptance, or the update of a READ phase after the pulse's two edges. -/
theorem readFrame : Obligations.ReadFrame := by
  intro c m t hf h
  rw [exec_eq] at h
  obtain ⟨-, rfl⟩ | ⟨hsync, -⟩ | ⟨hi, u, hu, rfl⟩ := commandStep_cases h
  · exact ⟨_, rfl, rfl, rfl, rfl, rfl, fun _ => ⟨rfl, rfl⟩⟩
  · simp [hsync] at hf
  · rw [pulseOfPhase_read _ (hf.resolve_left hi)] at hu
    cases hu
    exact ⟨_, rfl, by simpa using readUpdate_keeps (readData (pulseEdges (clearResp m))) (pulseEdges (clearResp m))⟩

/-- Settles O31: the run up to the j-th pulse, which commits if j is W; `shreg` is the same either way. -/
theorem shregHoldsTheBitsReadSoFar : Obligations.ShregHoldsTheBitsReadSoFar := by
  intro c m j hm hf hcnt hsh hs _ hj
  obtain rfl | hlt := hj.eq_or_lt
  · obtain ⟨lastBit, hrun⟩ := readPhase_run_commits hm hf hcnt hsh hs
    exact ⟨_, hrun, shregAfter_toNat hj m.line, ofNat_cnt_toNat hj, rfl⟩
  · obtain ⟨lastBit, synced, respValid, hrun⟩ := readPhase_run_collects hm hf hcnt hsh hs hlt
    exact ⟨_, hrun, shregAfter_toNat hj m.line, ofNat_cnt_toNat hj, rfl⟩

/-- Settles O32: the runs shorter than W pulses, and the one that commits. -/
theorem readAssemblesMostSignificantFirst : Obligations.ReadAssemblesMostSignificantFirst :=
  fun _ _ hm hf hcnt hsh hs =>
    ⟨readPhase_takesWPulses hm hf hcnt hsh hs, fun _ => readPhase_commitsItsBits hm hf hcnt hsh hs⟩

/-- Settles O33: the W bits read are the spelling, whose value is the raw value. -/
theorem readReturnsTheSpelledValue : Obligations.ReadReturnsTheSpelledValue := by
  refine ⟨fun c m raw rest hm hf hcnt hsh hs _ hdriven hraw hnamed => ?_, fun _ _ => msbValue_injective, msbValue_lt⟩
  obtain ⟨t, hrun, hvalid, hsample, -⟩ := readPhase_commitsItsBits hm hf hcnt hsh hs
  have hbits := Converter_upcoming_named (msbSpelling c.w raw) rest m.line hdriven hnamed
  rw [msbSpelling_length] at hbits
  exact ⟨t, hrun, hvalid, by rw [hsample, hbits, msbValue_msbSpelling, Nat.mod_eq_of_lt hraw]⟩

end Sys2Proof.Machine
end

section
/-! PROOFS. The serial framer's statements (43_serial_framer R160 to R168): which command a step runs, the reserved
codes, ACQUIRE and STARTUP step by step and as whole commands, their equivalence with two commands in turn, and the runs
that never stop. -/

namespace Sys2Proof.Machine

variable {c : Params}

/-! ### The command a step runs (43_serial_framer R160) -/

/-- A command is accepted exactly where one is presented to a ready block (30_encoding R74). -/
theorem accepts_iff (m : Framer c) :
    accepts m = true ↔ m.port.cmdValid = true ∧ m.fsm = .idle ∧ m.port.rst = false ∧ m.respValid = false := by
  rw [accepts, Bool.and_eq_true, cmdReady_iff]

section Step

variable {m : Framer c} (hl : c.Legal) (hb : badRead m = false) (hr : m.port.rst = false) (hs : m.started = true)

include hl hb hr hs

theorem step_accepted (hf : m.fsm = .idle) (hv : m.respValid = false) (hp : m.port.cmdValid = true) :
    step ⟨c, m⟩ = Outcome.thenHost true m.sample.toNat (exec (decode m.port.cmdOp) ⟨c, m⟩) := by
  have ha : accepts m = true := (accepts_iff m).mpr ⟨hp, hf, hr, hv⟩
  rw [step_run m _ hl hb hr hs ((currentCommand_idle_some_iff hf _).mpr ⟨ha, rfl⟩), ha]

theorem step_inProgress (hi : m.fsm ≠ .idle) :
    step ⟨c, m⟩ = Outcome.thenHost false m.sample.toNat (exec (decode m.op) ⟨c, m⟩) := by
  rw [step_run m _ hl hb hr hs (currentCommand_busy m hi), accepts_busy m hi]

end Step

/-- The command of a table word is the one its code on the three wires decodes to. -/
theorem decode_of_decodeTableWord {nbits w : Nat} {i : Instr} (h : decodeTableWord nbits w = some i) :
    decode (BitVec.ofNat 3 (w % 2 ^ nbits)) = i := by
  by_cases hw : w % 2 ^ nbits < 8
  · simpa [decodeTableWord, decodeNumber, hw] using h
  · simp [decodeTableWord, decodeNumber, hw] at h

/-! ### A step of a phase under two commands -/

/-- Outside a SYNC phase the register updates of a pulse are the phase's own, whatever the command. -/
theorem phaseUpdate_eq_of_not_sync (row row' : Row c) (b : Bit) {m : Framer c} (hf : m.fsm ≠ .sync) :
    phaseUpdate row b m = phaseUpdate row' b m := by
  unfold phaseUpdate
  cases h : m.fsm with
  | sync => exact absurd h hf
  | idle => rfl
  | read => rfl
  | flush => rfl
  | pulse => rfl

theorem exec_eq_of_not_sync (i j : Instr) {m : Framer c} (hi : m.fsm ≠ .idle) (hf : m.fsm ≠ .sync) :
    exec i ⟨c, m⟩ = exec j ⟨c, m⟩ := by
  rw [exec_eq, exec_eq, commandStep_pulse _ m hi fun h => absurd h hf, commandStep_pulse _ m hi fun h => absurd h hf]
  exact congrArg pulseOutcome (phaseUpdate_eq_of_not_sync _ _ _ (by simpa using hf))

section Sync

variable {m : Framer c} (hf : m.fsm = .sync) (hc : m.port.cancel = false) (hs : m.sclk = true)

include hf hc hs

/-- A pulse that completes no marker does the same under every command. -/
theorem exec_syncPhase_more_eq (i j : Instr) (hk : m.zrun.toNat < c.k)
    (h : m.line.shift.level = true ∨ m.zrun.toNat + 1 < c.k) : exec i ⟨c, m⟩ = exec j ⟨c, m⟩ := by
  have hmore : (nextRun m.line.shift.level m.zrun).toNat ≠ c.k := by
    cases hb : m.line.shift.level with
    | true => simp; omega
    | false =>
      have hzero : m.zrun.toNat + 1 < c.k := by simpa [hb] using h
      rw [nextRun_zero, zrun_succ m hk]
      exact hzero.ne
  rw [exec_syncPhase_more hf hc hs rfl i hmore, exec_syncPhase_more hf hc hs rfl j hmore]

/-- The zero that completes the marker, and the command's `SyncEnd()` in the same step (43_serial_framer R164). -/
theorem exec_syncPhase_marker {i : Instr} {f : Framer c → Framer c} (hend : (rowOf c i).syncEnd = some f)
    (hb : m.line.shift.level = false) (hk : m.zrun.toNat + 1 = c.k) :
    exec i ⟨c, m⟩ = .next ⟨c, f (searchPulse false true m)⟩ := by
  have hrun : (nextRun false m.zrun).toNat = c.k := by rw [nextRun_zero, zrun_succ m (by omega), hk]
  exact exec_syncPhase_last hf hc hs hb hend hrun

end Sync

/-! ### What ACQUIRE and STARTUP leave unchanged (43_serial_framer R161, R162) -/

/-- A step of a command leaves the sample, but for the end of a READ phase. -/
theorem exec_keeps_sample {i : Instr} {m u : Framer c} (h : exec i ⟨c, m⟩ = .next ⟨c, u⟩)
    (hf : m.fsm ≠ .read ∨ u.fsm = .read) : u.sample = m.sample ∧ u.sampleValid = m.sampleValid := by
  rw [exec_eq] at h
  obtain ⟨-, ht⟩ | ⟨-, -, ht⟩ | ⟨hi, v, hv, ht⟩ := commandStep_cases h <;> cases ht
  · simp
  · exact ⟨rfl, rfl⟩
  · obtain hkeeps | ⟨hread, -, -, -, hidle, -⟩ := phaseUpdate_sample_cases hv (by simpa using hi)
    · simpa using hkeeps
    · simp [hidle, show m.fsm = .read by simpa using hread] at hf

/-- No pulse of a READ phase touches `zrun` (42_adc_bit_collector R141). -/
theorem exec_readPhase_zrun {i : Instr} {m u : Framer c} (hf : m.fsm = .read)
    (h : exec i ⟨c, m⟩ = .next ⟨c, u⟩) : u.zrun = m.zrun := by
  rw [exec_eq_of_not_sync i .read (by simp [hf]) (by simp [hf])] at h
  obtain ⟨v, hv, hzrun, -⟩ := readFrame c m _ (.inr hf) h
  cases hv
  exact hzrun

/-- A pulse of STARTUP's SYNC phase shifts nothing into `shreg`, whether or not it completes the marker. -/
theorem syncUpdate_startup_shreg {b : Bit} {m u : Framer c} (h : syncUpdate (rowOf c .startup) b m = some u) :
    u.shreg = m.shreg := by
  by_cases hk : (nextRun b m.zrun).toNat = c.k
  · rw [syncUpdate_last _ m b hk] at h
    cases h
    rfl
  · rw [syncUpdate_more _ m b hk] at h
    cases h
    rfl

/-- STARTUP collects no bit: neither of its phases writes `shreg` (43_serial_framer R162). -/
theorem exec_startup_shreg {m u : Framer c} (hf : m.fsm = .idle ∨ m.fsm = .sync ∨ m.fsm = .flush)
    (h : exec .startup ⟨c, m⟩ = .next ⟨c, u⟩) : u.shreg = m.shreg := by
  rw [exec_eq] at h
  obtain ⟨-, ht⟩ | ⟨-, -, ht⟩ | ⟨hi, v, hv, ht⟩ := commandStep_cases h <;> cases ht
  · rfl
  · rfl
  · obtain hsync | hflush := hf.resolve_left hi
    · rw [pulseOfPhase_sync _ hsync] at hv
      simpa using syncUpdate_startup_shreg hv
    · rw [pulseOfPhase_flush _ hflush] at hv
      cases hv
      obtain ⟨-, -, hshreg, -⟩ := flushUpdate_keeps (pulseEdges (clearResp m))
      simpa using hshreg

/-- A flush pulse reads no bit and runs no search (40_clock_generator R106). -/
theorem exec_flushPhase_zrun_lastBit {i : Instr} {m u : Framer c} (hf : m.fsm = .flush)
    (h : exec i ⟨c, m⟩ = .next ⟨c, u⟩) : u.zrun = m.zrun ∧ u.lastBit = m.lastBit := by
  rw [exec_eq_of_not_sync i .flush (by simp [hf]) (by simp [hf])] at h
  obtain ⟨v, hv, hlast, hzrun, -⟩ := flushFrame c m _ (.inr hf) h
  cases hv
  exact ⟨hzrun, hlast⟩

/-! ### The bits the line shows after the first ones -/

theorem Converter_shifts_add (n k : Nat) (v : Converter) :
    Converter.shifts (n + k) v = Converter.shifts k (Converter.shifts n v) := by
  induction n generalizing v with
  | zero => rw [Nat.zero_add]; rfl
  | succ n ih => rw [Nat.add_right_comm]; exact ih v.shift

theorem Converter_upcoming_drop (n k : Nat) (v : Converter) :
    (Converter.upcoming (n + k) v).drop n = Converter.upcoming k (Converter.shifts n v) := by
  induction n generalizing v with
  | zero => rw [Nat.zero_add]; rfl
  | succ n ih => rw [Nat.add_right_comm]; exact ih v.shift

/-- Bit 0 of the shift register is the level the last pulse read. -/
theorem shregAfter_getLsbD_zero {n : Nat} (hn : 0 < n) (hw : 0 < c.w) (v : Converter) :
    (shregAfter c n v).getLsbD 0 = (Converter.shifts n v).level := by
  obtain ⟨k, rfl⟩ := Nat.exists_eq_add_one.mpr hn
  rw [← shiftIn_shregAfter, shiftIn_getLsbD, Converter_shifts_succ_last]
  simp [hw]

/-! ### A whole READ phase and a whole FLUSH phase, every register named -/

/-- The machine at the end of a READ phase that began at `m`; `last_bit` is the level its W-th pulse read. -/
def readOut (m : Framer c) : Framer c :=
  commitSample (collected c.w (Converter.shifts c.w m.line).level false false m)

/-- The run of a whole READ phase; the W-th pulse, as every sampled one, leaves in `last_bit` the level of the line. -/
theorem readPhase_run_ends {m : Framer c} (hm : Calm m) (hf : m.fsm = .read) (hcnt : m.cnt = 0) (hsh : m.shreg = 0)
    (hs : m.sclk = true) :
    Sys2Proof.core.run c.w ⟨c, m⟩ = .next ⟨c, readOut m⟩ := by
  obtain ⟨n, hn⟩ := Nat.exists_eq_add_one.mpr hm.legal.2.1
  obtain ⟨bit, synced, respValid, hbefore⟩ := readPhase_run_collects hm hf hcnt hsh hs (n := n) (by omega)
  obtain ⟨lastBit, hrun⟩ := readPhase_run_commits hm hf hcnt hsh hs
  have hlast : step ⟨c, collected n bit synced respValid m⟩ =
      .next ⟨c, commitSample (collected c.w lastBit false false m)⟩ := by
    have hsplit := core_run_add n 1 hbefore
    rw [← hn, hrun] at hsplit
    obtain ⟨u, hstep, hend⟩ := core_run_succ_next hsplit.symm
    cases hend
    exact hstep
  obtain ⟨hpulses, -⟩ | ⟨-, -, -, -, hbit⟩ :=
    everyPulseConsumesOnePosition c (collected n bit synced respValid m) _ hs (hm.run hbefore).noReset.1 hlast
  · have : m.pulses + c.w = m.pulses + n := hpulses
    omega
  · rw [if_neg (by simp [collected, hf])] at hbit
    obtain rfl : lastBit = (Converter.shifts c.w m.line).level := hbit
    exact hrun

/-- The host's turns during the rest of a FLUSH phase. -/
theorem flushPhase_run_port (n : Nat) : ∀ m t : Framer c, Calm m → m.fsm = .flush → m.sclk = true →
    m.cnt.toNat + (n + 1) = c.p → Sys2Proof.core.run (n + 1) ⟨c, m⟩ = .next ⟨c, t⟩ →
    t.port = m.port.busyTurns m.sample.toNat (n + 1) := by
  induction n with
  | zero =>
    intro m t hm hf hs hk h
    have hstep := hm.step_busy (by simp [hf]) (exec_flushPhase_last _ hf hs hk)
    rw [core_run_succ 0 hstep] at h
    cases h
    rfl
  | succ n ih =>
    intro m t hm hf hs hk h
    have hcnt : (m.cnt + 1).toNat = m.cnt.toNat + 1 := flush_cnt_succ (by omega)
    have hstep := hm.step_busy (by simp [hf]) (exec_flushPhase_more _ hf hs (by omega))
    rw [core_run_succ (n + 1) hstep] at h
    exact ih _ t (hm.next hstep) hf hs (by simp only [withPort]; omega) h

/-- The machine at the end of a FLUSH phase that began at `m`: P pulses, none of them read, and the OK response. -/
def flushed (m : Framer c) : Framer c :=
  respond .ok { m with
    line := Converter.shifts c.p m.line, pulses := m.pulses + c.p, synced := false, cnt := BitVec.ofNat c.cw c.p,
    port := m.port.busyTurns m.sample.toNat c.p }

theorem flushPhase_run_ends {m : Framer c} (hm : Calm m) (hf : m.fsm = .flush) (hcnt : m.cnt = 0)
    (hs : m.sclk = true) : Sys2Proof.core.run c.p ⟨c, m⟩ = .next ⟨c, flushed m⟩ := by
  obtain ⟨n, hn⟩ := Nat.exists_eq_add_one.mpr (p_pos_of_legal hm.legal)
  have hleft : m.cnt.toNat + (n + 1) = c.p := by simp [hcnt, hn]
  obtain ⟨cnt, port, hend, hrun⟩ := flushPhase_run n m hm hf hs hleft
  have hport : port = _ := flushPhase_run_port n m _ hm hf hs hleft hrun
  obtain rfl : cnt = BitVec.ofNat c.cw c.p := by rw [← hend, BitVec.ofNat_toNat, BitVec.setWidth_eq]
  rw [hport, ← hn] at hrun
  exact hrun

/-! ### ACQUIRE and STARTUP as whole commands (43_serial_framer R161, R162, R167) -/

/-- The host's promise is about its ports: it outlasts an acceptance, which writes none of them. -/
theorem Calm.accept {m : Framer c} (hm : Calm m) (i : Instr) : Calm (accept (rowOf c i) m) where
  legal := hm.legal
  started := (accept_rowOf_started i m).trans hm.started
  noReset := (accept_rowOf_port i m).symm ▸ hm.noReset
  noRead := (accept_rowOf_port i m).symm ▸ hm.noRead

theorem Calm.withOp {m : Framer c} (hm : Calm m) (op : Code) : Calm { m with op := op } := { hm with }

/-- The machine at the end of a SYNC phase that began at `m` and completed at its n-th pulse, before the command's
`SyncEnd()`. -/
def markerFound (n : Nat) (m : Framer c) : Framer c := searched n false true false m

section Composite

variable {m : Framer c} {n : Nat} (hm : Calm m) (hc : NoCancel m.port) (hf : m.fsm = .sync) (hz : m.zrun = 0)
  (hs : m.sclk = true) (h : CompletesAt c.k n (Converter.upcoming n m.line))

include hm hc hf hz hs h

/-- SYNC's n steps. -/
theorem sync_run (hop : decode m.op = .sync) :
    Sys2Proof.core.run n ⟨c, m⟩ = .next ⟨c, respond .ok (markerFound n m)⟩ :=
  syncPhase_run_completes hm hc hf hz hs (by rw [hop]; rfl) h

/-- ACQUIRE's n + W steps: the READ phase follows the marker at once (43_serial_framer R161). -/
theorem acquire_run (hop : decode m.op = .acquire) :
    Sys2Proof.core.run (n + c.w) ⟨c, m⟩ = .next ⟨c, readOut (enterRead (markerFound n m))⟩ := by
  have hsync : Sys2Proof.core.run n ⟨c, m⟩ = .next ⟨c, enterRead (markerFound n m)⟩ :=
    syncPhase_run_completes hm hc hf hz hs (by rw [hop]; rfl) h
  rw [core_run_add n c.w hsync]
  exact readPhase_run_ends (hm.run hsync) rfl rfl rfl hs

/-- STARTUP's n + P steps: the FLUSH phase follows the marker at once (43_serial_framer R162). -/
theorem startup_run (hop : decode m.op = .startup) :
    Sys2Proof.core.run (n + c.p) ⟨c, m⟩ = .next ⟨c, flushed (enterFlush (markerFound n m))⟩ := by
  have hsync : Sys2Proof.core.run n ⟨c, m⟩ = .next ⟨c, enterFlush (markerFound n m)⟩ :=
    syncPhase_run_completes hm hc hf hz hs (by rw [hop]; rfl) h
  rw [core_run_add n c.p hsync]
  exact flushPhase_run_ends (hm.run hsync) rfl rfl hs

end Composite

/-! ### A step always comes (43_serial_framer R160, 60_exceptions R200) -/

/-- The register updates of a pulse are defined where the command has a `SyncEnd()` for its SYNC phase. -/
theorem phaseUpdate_isSome {i : Instr} (b : Bit) {m : Framer c} (h : m.fsm = .sync → i.startsWithSync = true) :
    ∃ u, phaseUpdate (rowOf c i) b m = some u := by
  unfold phaseUpdate
  cases hf : m.fsm with
  | sync =>
    obtain ⟨f, hend⟩ := Option.isSome_iff_exists.mp ((syncEnd_isSome (c := c) i).trans (h hf))
    by_cases hk : (nextRun b m.zrun).toNat = c.k
    · exact ⟨_, by rw [syncUpdate_last _ m b hk, hend]; rfl⟩
    · exact ⟨_, syncUpdate_more _ m b hk⟩
  | idle => exact ⟨_, rfl⟩
  | read => exact ⟨_, rfl⟩
  | flush => exact ⟨_, rfl⟩
  | pulse => exact ⟨_, rfl⟩

theorem commandStep_next {i : Instr} {m : Framer c} (h : m.fsm = .sync → i.startsWithSync = true) :
    ∃ u, commandStep (rowOf c i) m = .next u := by
  by_cases hi : m.fsm = .idle
  · exact ⟨_, commandStep_idle _ m hi⟩
  · by_cases hc : m.fsm = .sync ∧ m.port.cancel = true
    · exact ⟨_, commandStep_cancel _ m hc.1 hc.2⟩
    · obtain ⟨u, hu⟩ := phaseUpdate_isSome (i := i) (readData (pulseEdges (clearResp m)))
        (m := pulseEdges (clearResp m)) (by simpa using h)
      rw [commandStep_pulse _ m hi fun hs => by simpa [hs] using hc, pulseOfPhase, hu]
      exact ⟨_, rfl⟩

/-- The command a boundary runs in a SYNC phase is one that has a SYNC phase. -/
theorem RegsInv.startsWithSync_of_currentCommand {i : Instr} {m : Framer c} (h : RegsInv m)
    (hi : currentCommand m = some i) (hf : m.fsm = .sync) : i.startsWithSync = true := by
  obtain rfl := eq_decode_op_of_currentCommand hi (by simp [hf])
  exact h.startsWithSync hf

theorem RegsInv.step_next {m : Framer c} (h : RegsInv m) (hl : c.Legal) (hs : m.started = true)
    (hb : badRead m = false) : ∃ t, step ⟨c, m⟩ = .next t := by
  cases hr : m.port.rst with
  | true => exact ⟨_, step_reset m hl hb hr⟩
  | false =>
    cases hi : currentCommand m with
    | none => exact ⟨_, step_idle m hl hb hr hs hi⟩
    | some i =>
      obtain ⟨u, hu⟩ := commandStep_next (h.startsWithSync_of_currentCommand hi)
      rw [step_run m i hl hb hr hs hi, exec_eq, hu]
      exact ⟨_, rfl⟩

/-- The invariant and the host's promise carry a run on, step by step. -/
theorem Calm.run_next (n : Nat) {m : Framer c} (hm : Calm m) (h : RegsInv m) :
    ∃ t, Sys2Proof.core.run n ⟨c, m⟩ = .next t := by
  induction n generalizing m with
  | zero => exact ⟨_, core_run_zero _⟩
  | succ n ih =>
    obtain ⟨⟨d, t⟩, hstep⟩ := h.step_next hm.legal hm.started hm.badRead
    obtain rfl : d = c := step_cfg hstep
    rw [core_run_succ n hstep]
    exact ih (hm.next hstep) (step_regsInv (fun _ => h) hstep)

/-! ### The obligations -/

/-- Settles O8: the command is the accepted one or the one in `op`, and a busy block accepts none. -/
theorem stepRunsTheDecodedCommand : Obligations.StepRunsTheDecodedCommand :=
  fun _ _ hl hb hr hs => ⟨step_accepted hl hb hr hs, step_inProgress hl hb hr hs⟩

/-- Settles O9: the machine a word is placed on is a ready one with the word's code presented. -/
theorem placedWordRunsNext : Obligations.PlacedWordRunsNext := by
  intro s w i hl hw
  obtain rfl := decode_of_decodeTableWord hw
  have hread : badRead (presented (BitVec.ofNat 3 (w % 2 ^ 8)) s.fr) = false := by simp [badRead, presented]
  exact step_accepted hl hread rfl rfl rfl rfl rfl

/-- Settles O10: a block that is not ready, or that nothing is presented to, runs no command. -/
theorem idleBlockKeepsItsState : Obligations.IdleBlockKeepsItsState := by
  intro c m hl hb hr hs hf hno
  have hnone : accepts m = false := by
    rw [← Bool.not_eq_true, accepts_iff]
    rintro ⟨hvalid, -, -, hresp⟩
    simp [hvalid, hresp] at hno
  exact step_idle m hl hb hr hs ((currentCommand_none_iff m).mpr ⟨hf, hnone⟩)

/-- Settles O14: the acceptance by a reserved code's row is `Respond(ILLEGAL)`, of a block that is IDLE already. -/
theorem reservedCodeIsAnsweredIllegal : Obligations.ReservedCodeIsAnsweredIllegal := by
  intro c m hf
  rw [exec_idle .rsvd0 hf, exec_idle .rsvd7 hf]
  cases m
  cases hf
  exact ⟨rfl, rfl⟩

/-- Settles O19: ACQUIRE differs from SYNC in its acceptance and its `SyncEnd()` alone, and from READ in nothing. -/
theorem acquireSynchronizesThenReads : Obligations.AcquireSynchronizesThenReads :=
  fun _ _ => ⟨exec_idle .acquire, exec_syncPhase_cancel .acquire,
    fun hf hc hs => exec_syncPhase_marker (i := .acquire) hf hc hs rfl,
    fun hf hc hs => exec_syncPhase_more_eq hf hc hs .acquire .sync,
    fun hf => exec_eq_of_not_sync .acquire .read (by simp [hf]) (by simp [hf]),
    exec_readPhase_last .acquire⟩

/-- Settles O20: STARTUP differs from SYNC in its acceptance and its `SyncEnd()` alone, and from FLUSH in nothing. -/
theorem startupSynchronizesThenFlushes : Obligations.StartupSynchronizesThenFlushes :=
  fun _ _ => ⟨exec_idle .startup, exec_syncPhase_cancel .startup,
    fun hf hc hs => exec_syncPhase_marker (i := .startup) hf hc hs rfl,
    fun hf hc hs => exec_syncPhase_more_eq hf hc hs .startup .sync,
    fun hf => exec_eq_of_not_sync .startup .flush (by simp [hf]) (by simp [hf]),
    exec_flushPhase_last .startup⟩

/-- Settles O29: what every command keeps, and of the data registers what the phases of each of the two keep. -/
theorem compositeFrames : Obligations.CompositeFrames := by
  intro c m t
  constructor
  · intro _ h
    obtain ⟨u, rfl, hhold, hport, hstarted⟩ := noCommandTouchesHostOrHold c m .acquire t h
    exact ⟨u, rfl, hhold, hport, hstarted, fun hread => exec_readPhase_zrun hread h, exec_keeps_sample h⟩
  · intro hf h
    obtain ⟨u, rfl, hhold, hport, hstarted⟩ := noCommandTouchesHostOrHold c m .startup t h
    have hread : m.fsm ≠ .read := by rintro hread; simp [hread] at hf
    obtain ⟨hsample, hvalid⟩ := exec_keeps_sample h (.inl hread)
    exact ⟨u, rfl, hhold, hport, hstarted, hsample, hvalid, exec_startup_shreg hf h,
      fun hflush => exec_flushPhase_zrun_lastBit hflush h⟩

/-- Settles O37: the READ phase starts on the line the SYNC phase left, so it collects the bits after the marker. -/
theorem acquireReturnsTheBitsAfterTheMarker : Obligations.AcquireReturnsTheBitsAfterTheMarker := by
  intro c m n hm hc hf hz hs hop h
  obtain ⟨-, -, -, -, hzeros⟩ := h.last_pulse hm.legal.1
  refine ⟨_, acquire_run hm hc hf hz hs h hop, ?sample, rfl, rfl, rfl, rfl, rfl, ?zrun, ofNat_cnt_toNat le_rfl, ?bit,
    Nat.add_assoc .., (Converter_shifts_add ..).symm⟩
  case sample =>
    rw [Converter_upcoming_drop]
    exact shregAfter_toNat le_rfl (Converter.shifts n m.line)
  case zrun => exact (zrunAfter_toNat hzeros.le).trans hzeros
  case bit => exact (shregAfter_getLsbD_zero hm.legal.2.1 hm.legal.2.1 (Converter.shifts n m.line)).symm

/-- Settles O38: both ways the READ phase starts where the marker was found, with `op` apart. -/
theorem syncThenReadEqualsAcquire : Obligations.SyncThenReadEqualsAcquire := by
  intro c m n hm hc hf hz hs h
  have hsync := sync_run (hm.withOp (encode .sync)) hc hf hz hs h rfl
  have hcalm := ((hm.withOp (encode .sync)).run hsync).accept .read
  exact ⟨_, _, _, _, acquire_run (hm.withOp (encode .acquire)) hc hf hz hs h rfl, hsync, exec_idle .read rfl,
    readPhase_run_ends hcalm rfl rfl rfl hs, rfl⟩

/-- Settles O39: both ways the FLUSH phase starts where the marker was found, with `op` apart. -/
theorem syncThenFlushEqualsStartup : Obligations.SyncThenFlushEqualsStartup := by
  intro c m n hm hc hf hz hs h
  have hsync := sync_run (hm.withOp (encode .sync)) hc hf hz hs h rfl
  have hcalm := ((hm.withOp (encode .sync)).run hsync).accept .flush
  exact ⟨_, _, _, _, startup_run (hm.withOp (encode .startup)) hc hf hz hs h rfl, hsync, exec_idle .flush rfl,
    flushPhase_run_ends hcalm rfl rfl hs, rfl⟩

/-- Settles O42: the invariant leaves no SYNC phase to a command without a `SyncEnd()`. -/
theorem legalMachineAlwaysSteps : Obligations.LegalMachineAlwaysSteps :=
  fun _ _ h hl hs hb => (h hs).step_next hl hs hb

/-- Settles O43, by induction on the length of the run. -/
theorem calmMachineRunsSafely : Obligations.CalmMachineRunsSafely :=
  fun _ _ h hm n => hm.run_next n (h hm.started)

end Sys2Proof.Machine
end

section
/-! PROOFS. The host's statements (44_host_operations R180 to R195): unit conversion, the read of `sample_o`, and the
acquisition loop's boundary part by part: the response it hears, a reset, the end of termination, and the step of the
joined system. -/

namespace Sys2Proof.Machine

variable {c : Params}

/-! ### Unit conversion (R181, R183) -/

@[simp] theorem toVoltage_zero (w : Nat) (vref offset : Rat) : toVoltage 0 w vref offset = offset := by
  simp [toVoltage]

/-- The largest raw value of `w` bits is the fraction `1 - 2^-w` of the full scale. -/
theorem toVoltage_max (w : Nat) (vref offset : Rat) :
    toVoltage (2 ^ w - 1) w vref offset = vref * (1 - 1 / 2 ^ w) + offset := by
  have hpow : (2 : Rat) ^ w ≠ 0 := by positivity
  rw [toVoltage, Nat.cast_sub Nat.one_le_two_pow]
  push_cast
  field_simp

/-- The full scale is never reached: the fraction `2^-w` of it is missing. -/
theorem toVoltage_max_ne (w : Nat) {vref : Rat} (offset : Rat) (h : vref ≠ 0) :
    toVoltage (2 ^ w - 1) w vref offset ≠ vref + offset := by
  have hmissing : vref * (1 / 2 ^ w) ≠ 0 := mul_ne_zero h (by positivity)
  rw [toVoltage_max]
  intro heq
  exact hmissing (by linarith)

/-! ### The input ports after a step (R194) -/

/-- A host whose plan has ended leaves `cancel_i` where it is. -/
theorem HostPort_turn_cancel {h : HostPort} (hp : h.plan = []) (a : Bool) (n : Nat) :
    (h.turn a n).cancel = h.cancel := by
  simp [HostPort.turn, HostPort.nextMove, HostPort.quietMove, hp]

/-- The host takes the value that `sample_o` showed at the boundary. -/
theorem step_taken {m : Framer c} {t : State} (hr : m.port.readSample = true) (h : step ⟨c, m⟩ = .next t) :
    t.fr.port.taken = some m.sample.toNat := by
  obtain ⟨a, -, hport⟩ := step_port h
  simp [hport, hr]

/-- A step in which the host reads `sample_o` is of a block that shows a sample (10_state R47). -/
theorem step_sampleValid {m : Framer c} {t : State} (hr : m.port.readSample = true) (h : step ⟨c, m⟩ = .next t) :
    m.started = true ∧ m.sampleValid = true := by
  obtain ⟨-, hread, -⟩ := step_cases h
  simpa [badRead, hr] using hread

/-- A step does not see whether the host reads a valid sample: without the read it differs in the ports alone. -/
theorem step_without_read {m t : Framer c} (h : step ⟨c, m⟩ = .next ⟨c, t⟩) :
    ∃ q, step ⟨c, withPort { m.port with readSample := false } m⟩ = .next ⟨c, withPort q t⟩ :=
  step_withPort rfl rfl rfl (by simp [badRead]) rfl h

/-! ### Hearing a response (R186, R187) -/

/-- A trusted sample in a RUNNING loop: it becomes the last one, and its record is attempted exactly above the threshold
(R184, R188, R191). -/
theorem takes_running (lc : LoopConfig) (e : LoopInput) (raw : Nat) {l : Loop} (h : l.phase = .running) :
    l.takes lc e raw = { l with
      last := some { stamp := e.now, voltage := lc.voltage raw }, framed := false,
      asleep := lc.sleep lc.delay l.cycles, cycles := l.cycles + 1
      sink := if lc.threshold < lc.voltage raw ∧ e.writeOk = true
        then l.sink ++ [{ stamp := e.now, voltage := lc.voltage raw }] else l.sink
      reports := if lc.threshold < lc.voltage raw ∧ e.writeOk = false then l.reports + 1 else l.reports } := by
  simp only [Loop.takes, h, emit_eq]

theorem takes_keeps (lc : LoopConfig) (e : LoopInput) (raw : Nat) (l : Loop) :
    (l.takes lc e raw).phase = l.phase ∧ (l.takes lc e raw).issue = l.issue := by
  unfold Loop.takes
  cases h : l.phase <;> simp [emit_eq, h]

theorem boots_keeps (l : Loop) : l.boots.last = l.last ∧ l.boots.issue = l.issue := by
  unfold Loop.boots
  cases l.phase <;> exact ⟨rfl, rfl⟩

/-- STARTUP's OK response moves STARTING to RUNNING and no other phase (R186). -/
theorem boots_phase (l : Loop) : l.boots.phase = if l.phase = .starting then .running else l.phase := by
  unfold Loop.boots
  cases h : l.phase <;> simp [h]

/-- The OK response of a command that brings a sample: a loop takes one that it can read, and only since a STARTUP (R194
"after reset"). -/
theorem answer_samples (lc : LoopConfig) (e : LoopInput) {r : Response} (l : Loop) (hs : r.status = .ok)
    (hc : Instr.samples r.command = true) :
    l.answer lc e r = if l.booted then r.sample.elim l (l.takes lc e) else l := by
  obtain ⟨command, status, bit, sample⟩ := r
  cases hs
  cases command
  case read => cases sample <;> rfl
  case acquire => cases sample <;> rfl
  all_goals cases hc

/-- Everything consuming a response can do: the mark of the cycle's SYNC may change, STARTUP has answered OK, or a loop
that trusts the block takes a sample. -/
theorem answer_cases (lc : LoopConfig) (e : LoopInput) (r : Response) (l : Loop) :
    (∃ framed, l.answer lc e r = { l with framed := framed }) ∨
    (r.status = .ok ∧ r.command = .startup ∧ l.answer lc e r = l.boots) ∨
    (l.booted = true ∧ ∃ raw, l.answer lc e r = l.takes lc e raw) := by
  by_cases hc : r.status = .ok ∧ Instr.samples r.command = true
  · rw [answer_samples lc e l hc.1 hc.2]
    by_cases hb : l.booted = true
    · rw [if_pos hb]
      cases r.sample with
      | none => exact .inl ⟨l.framed, rfl⟩
      | some raw => exact .inr (.inr ⟨hb, raw, rfl⟩)
    · rw [if_neg hb]
      exact .inl ⟨l.framed, rfl⟩
  · obtain ⟨command, status, bit, sample⟩ := r
    cases status with
    | cancelled => exact .inl ⟨false, rfl⟩
    | illegal => exact .inl ⟨l.framed, rfl⟩
    | ok =>
      cases command with
      | startup => exact .inr (.inl ⟨rfl, rfl, rfl⟩)
      | sync => exact .inl ⟨l.booted, rfl⟩
      | pulse => exact .inl ⟨false, rfl⟩
      | flush => exact .inl ⟨false, rfl⟩
      | rsvd0 => exact .inl ⟨l.framed, rfl⟩
      | rsvd7 => exact .inl ⟨l.framed, rfl⟩
      | read => exact absurd ⟨rfl, rfl⟩ hc
      | acquire => exact absurd ⟨rfl, rfl⟩ hc

/-- Consuming a response issues nothing, and of the phases it moves STARTING alone, to RUNNING. -/
theorem answer_keeps (lc : LoopConfig) (e : LoopInput) (r : Response) (l : Loop) :
    (l.answer lc e r).issue = l.issue ∧
    ((l.answer lc e r).phase = l.phase ∨ (l.phase = .starting ∧ (l.answer lc e r).phase = .running)) := by
  obtain ⟨framed, h⟩ | ⟨-, -, h⟩ | ⟨-, raw, h⟩ := answer_cases lc e r l
  · rw [h]
    exact ⟨rfl, .inl rfl⟩
  · rw [h, boots_phase]
    refine ⟨(boots_keeps l).2, ?_⟩
    by_cases hp : l.phase = .starting <;> simp [hp]
  · obtain ⟨hphase, hissue⟩ := takes_keeps lc e raw l
    rw [h]
    exact ⟨hissue, .inl hphase⟩

/-- A loop that does not trust the block yet takes no sample, and only STARTUP's OK response makes it trust the block
(70_reset_and_hazards R235, R236). -/
theorem answer_untrusting (lc : LoopConfig) (e : LoopInput) (r : Response) {l : Loop} (hb : l.booted = false) :
    (l.answer lc e r).last = l.last ∧
    ((l.answer lc e r).booted = true → r.status = .ok ∧ r.command = .startup) := by
  obtain ⟨framed, h⟩ | ⟨hs, hc, h⟩ | ⟨hb', -⟩ := answer_cases lc e r l
  · rw [h]
    exact ⟨rfl, fun hb' => absurd (hb.symm.trans hb') (by decide)⟩
  · rw [h]
    exact ⟨(boots_keeps l).1, fun _ => ⟨hs, hc⟩⟩
  · exact absurd (hb.symm.trans hb') (by decide)

/-- The command in progress is answered: hearing the response is consuming it, with nothing issued any more. -/
theorem hear_answered (lc : LoopConfig) (e : LoopInput) {m : Framer c} {l : Loop} {i : Instr} {base : Nat}
    (hi : l.issue = .running i base) (hv : m.respValid = true) :
    l.hear lc e m = { l with issue := .free }.answer lc e (responseTo m i) := by
  simp [Loop.hear, hi, hears_running i base hv, Issue.afterHearing, hv]

/-- Hearing is nothing, or it is consuming the response of the command in progress. -/
theorem hear_cases (lc : LoopConfig) (e : LoopInput) (m : Framer c) (l : Loop) :
    (l.issue.hears m = none ∧ l.hear lc e m = l) ∨
    ∃ i base, l.issue = .running i base ∧ m.respValid = true ∧
      l.hear lc e m = { l with issue := .free }.answer lc e (responseTo m i) := by
  cases hh : l.issue.hears m with
  | none => exact .inl ⟨rfl, hear_none hh⟩
  | some r =>
    obtain ⟨i, base, hi, hv, -⟩ := hears_cases hh
    exact .inr ⟨i, base, hi, hv, hear_answered lc e hi hv⟩

theorem hear_phase (lc : LoopConfig) (e : LoopInput) (m : Framer c) (l : Loop) :
    (l.hear lc e m).phase = l.phase ∨ (l.phase = .starting ∧ (l.hear lc e m).phase = .running) := by
  obtain ⟨-, h⟩ | ⟨i, base, -, -, h⟩ := hear_cases lc e m l <;> rw [h]
  · exact .inl rfl
  · exact (answer_keeps lc e (responseTo m i) { l with issue := .free }).2

/-- A command in progress is answered or still in progress. -/
theorem hear_issue_running (lc : LoopConfig) (e : LoopInput) (m : Framer c) {l : Loop} {i : Instr} {base : Nat}
    (hi : l.issue = .running i base) :
    (l.hear lc e m).issue = .free ∨ (l.hear lc e m).issue = .running i base := by
  obtain ⟨-, h⟩ | ⟨j, base', -, -, h⟩ := hear_cases lc e m l <;> rw [h]
  · exact .inr hi
  · exact .inl (answer_keeps lc e (responseTo m j) { l with issue := .free }).1

/-- What `answer_untrusting` says, of the response this boundary shows. -/
theorem hear_untrusting (lc : LoopConfig) (e : LoopInput) (m : Framer c) {l : Loop} (hb : l.booted = false) :
    (l.hear lc e m).last = l.last ∧
    ((l.hear lc e m).booted = true →
      ∃ base, l.issue = .running .startup base ∧ m.respValid = true ∧ m.respStatus = .ok) := by
  obtain ⟨-, h⟩ | ⟨i, base, hi, hv, h⟩ := hear_cases lc e m l <;> rw [h]
  · exact ⟨rfl, fun hb' => absurd (hb.symm.trans hb') (by decide)⟩
  · obtain ⟨hlast, hboots⟩ := answer_untrusting lc e (responseTo m i) (l := { l with issue := .free }) hb
    refine ⟨hlast, fun hb' => ?_⟩
    obtain ⟨hs, rfl⟩ : m.respStatus = .ok ∧ i = .startup := hboots hb'
    exact ⟨base, hi, hv, hs⟩

/-- A trusting loop hears the OK response of its READ or ACQUIRE: it takes the committed sample (R180). -/
theorem hear_sample (lc : LoopConfig) (e : LoopInput) {m : Framer c} {l : Loop} {i : Instr} {base : Nat}
    (hi : l.issue = .running i base) (hb : l.booted = true) (hv : m.respValid = true)
    (hbrings : bringsSample m i = true) (hs : m.started = true) (hsv : m.sampleValid = true) :
    l.hear lc e m = { l with issue := .free }.takes lc e m.sample.toNat := by
  obtain ⟨hsamples, hstatus⟩ : Instr.samples i = true ∧ m.respStatus = .ok := by simpa [bringsSample] using hbrings
  have hsample : (responseTo m i).sample = some m.sample.toNat := takeSample_ok hbrings hs hsv
  rw [hear_answered lc e hi hv, answer_samples lc e _ hstatus hsamples, hsample, if_pos hb]
  rfl

/-! ### A termination signal and a reset (R192, R194) -/

/-- A host that terminates already hears no further signal. -/
theorem terminate_terminating (signal : Bool) {l : Loop} (h : l.phase = .terminating) : l.terminate signal = l := by
  cases signal <;> simp [Loop.terminate, h]

/-- A reset leaves the samples and the sink. -/
theorem reset_keeps (rst : Bool) (l : Loop) :
    (l.reset rst).last = l.last ∧ (l.reset rst).sink = l.sink ∧ (l.reset rst).sinkOpen = l.sinkOpen := by
  cases rst <;> exact ⟨rfl, rfl, rfl⟩

/-- A reset takes the trust away. -/
theorem reset_booted (rst : Bool) (l : Loop) : (l.reset rst).booted = (!rst && l.booted) := by
  cases rst <;> rfl

theorem reset_issue (rst : Bool) (l : Loop) : (l.reset rst).issue = l.issue.afterReset rst := by
  cases rst with
  | true => rfl
  | false => cases h : l.issue <;> simp [h, Issue.afterReset]

/-- A reset sends a RUNNING loop back to STARTING and leaves every other phase (log entry 22). -/
theorem reset_phase (l : Loop) : (l.reset true).phase = if l.phase = .running then .starting else l.phase := by
  unfold Loop.reset
  cases l.phase <;> simp

theorem reset_terminating (rst : Bool) {l : Loop} (h : l.phase = .terminating) :
    (l.reset rst).phase = .terminating := by
  cases rst with
  | false => exact h
  | true => simp [reset_phase, h]

/-! ### The end of termination (R190 to R192) -/

/-- Without a last sample the end of termination closes the sink and does nothing else. -/
theorem finish_without_sample (lc : LoopConfig) (e : LoopInput) {l : Loop} (hp : l.phase = .terminating)
    (hi : l.issue = .free) (hl : l.last = none) :
    l.finish lc e = { l with phase := .closed, sinkOpen := false } := by
  simp [Loop.finish, hp, hi, hl]

/-- With a last sample it also attempts that sample's record, exactly above the threshold. -/
theorem finish_with_sample (lc : LoopConfig) (e : LoopInput) {l : Loop} {s : Captured} (hp : l.phase = .terminating)
    (hi : l.issue = .free) (hl : l.last = some s) :
    l.finish lc e = { l with
      phase := .closed, sinkOpen := false
      sink := if lc.threshold < s.voltage ∧ e.finalOk = true
        then l.sink ++ [{ stamp := lc.finalStamp e.now s, voltage := s.voltage }] else l.sink
      reports := if lc.threshold < s.voltage ∧ e.finalOk = false then l.reports + 1 else l.reports } := by
  simp [Loop.finish, hp, hi, hl, emit_eq]

theorem finish_closes (lc : LoopConfig) (e : LoopInput) {l : Loop} (hp : l.phase = .terminating)
    (hi : l.issue = .free) : (l.finish lc e).phase = .closed ∧ (l.finish lc e).sinkOpen = false := by
  cases hl : l.last with
  | none => simp [finish_without_sample lc e hp hi hl]
  | some s => simp [finish_with_sample lc e hp hi hl]

theorem finish_phase (lc : LoopConfig) (e : LoopInput) (l : Loop) :
    (l.finish lc e).phase = l.phase ∨ (l.phase = .terminating ∧ (l.finish lc e).phase = .closed) := by
  by_cases h : l.phase = .terminating ∧ l.issue = .free
  · exact .inr ⟨h.1, (finish_closes lc e h.1 h.2).1⟩
  · rw [finish_else lc e h]
    exact .inl rfl

/-! ### The loop's part of a boundary (log entry 22) -/

/-- After the response is heard nothing of the boundary changes the last sample, and only a reset the trust. -/
theorem boundary_keeps (lc : LoopConfig) (e : LoopInput) (m : Framer c) (l : Loop) :
    (l.boundary lc e m).last = (l.hear lc e m).last ∧
    (l.boundary lc e m).booted = (!e.reset && (l.hear lc e m).booted) := by
  unfold Loop.boundary
  obtain ⟨-, hpb, hpl, -, -, -⟩ := present_keeps lc
    ((((l.hear lc e m).terminate e.terminate).reset e.reset).finish lc e)
  obtain ⟨hfb, hfl, -⟩ := finish_keeps lc e (((l.hear lc e m).terminate e.terminate).reset e.reset)
  obtain ⟨hrl, -, -⟩ := reset_keeps e.reset ((l.hear lc e m).terminate e.terminate)
  obtain ⟨htb, htl, -, -⟩ := terminate_keeps e.terminate (l.hear lc e m)
  rw [hpl, hfl, hrl, htl, hpb, hfb, reset_booted, htb]
  exact ⟨rfl, rfl⟩

/-- The boundary of a loop that stays RUNNING is hearing the response and presenting the next command. -/
theorem boundary_running (lc : LoopConfig) {e : LoopInput} {m : Framer c} {l : Loop} (ht : e.terminate = false)
    (hr : e.reset = false) (hp : (l.hear lc e m).phase = .running) :
    l.boundary lc e m = (l.hear lc e m).present lc := by
  rw [Loop.boundary, ht, hr, terminate_false, reset_false, finish_else lc e (by simp [hp])]

/-- A boundary with a reset leaves no loop RUNNING: STARTUP is due again. -/
theorem boundary_reset_phase (lc : LoopConfig) {e : LoopInput} (m : Framer c) (l : Loop) (hr : e.reset = true) :
    (l.boundary lc e m).phase ≠ .running := by
  unfold Loop.boundary
  rw [(present_keeps lc _).1, hr]
  have hreset : (((l.hear lc e m).terminate e.terminate).reset true).phase ≠ .running := by
    rw [reset_phase]
    split
    · decide
    · assumption
  obtain h | ⟨-, h⟩ := finish_phase lc e (((l.hear lc e m).terminate e.terminate).reset true)
  · rwa [h]
  · simp [h]

/-- A reset with no termination signal puts a loop that has not ended back into STARTING. -/
theorem boundary_reset_starting (lc : LoopConfig) {e : LoopInput} (m : Framer c) {l : Loop} (hr : e.reset = true)
    (ht : e.terminate = false) (hp : l.phase = .starting ∨ l.phase = .running) :
    (l.boundary lc e m).phase = .starting := by
  have hheard : (l.hear lc e m).phase = .starting ∨ (l.hear lc e m).phase = .running := by
    obtain h | ⟨-, h⟩ := hear_phase lc e m l
    · rwa [h]
    · exact .inr h
  have hreset : ((l.hear lc e m).reset true).phase = .starting := by
    rw [reset_phase]
    obtain h | h := hheard <;> simp [h]
  rw [Loop.boundary, hr, ht, terminate_false, finish_else lc e (by simp [hreset]), (present_keeps lc _).1, hreset]

section Terminating

variable (lc : LoopConfig) (e : LoopInput) (m : Framer c) {l : Loop} (hp : l.phase = .terminating)

include hp

theorem hear_terminating : (l.hear lc e m).phase = .terminating := by
  obtain h | ⟨hs, -⟩ := hear_phase lc e m l
  · exact h.trans hp
  · simp [hp] at hs

/-- In TERMINATING the boundary is hearing the response, a reset, and the end of termination if it is due. -/
theorem boundary_terminating :
    l.boundary lc e m = (((l.hear lc e m).reset e.reset).finish lc e).present lc := by
  rw [Loop.boundary, terminate_terminating e.terminate (hear_terminating lc e m hp)]

/-- A terminating host holds `cancel_i` = 1, up to the end and at it (R192). -/
theorem boundary_cancelLevel : (l.boundary lc e m).cancelLevel = true := by
  have hreset := reset_terminating e.reset (hear_terminating lc e m hp)
  have hphase : (l.boundary lc e m).phase = .terminating ∨ (l.boundary lc e m).phase = .closed := by
    rw [boundary_terminating lc e m hp, (present_keeps lc _).1]
    obtain h | ⟨-, h⟩ := finish_phase lc e ((l.hear lc e m).reset e.reset)
    · exact .inl (h.trans hreset)
    · exact .inr h
  obtain h | h := hphase <;> simp [Loop.cancelLevel, h]

/-- While no response is heard and no reset ends the wait, the host only waits. -/
theorem boundary_waiting (hh : l.issue.hears m = none) (hw : l.issue.afterReset e.reset ≠ .free) :
    l.boundary lc e m = l.reset e.reset := by
  have hissue : (l.reset e.reset).issue ≠ .free := by rwa [reset_issue]
  rw [boundary_terminating lc e m hp, hear_none hh, finish_else lc e (fun h => hissue h.2), present_busy lc hissue]

/-- A reset ends the wait for the command in progress, and the sink is closed at once (log entry 22). -/
theorem boundary_reset_closes {i : Instr} {base : Nat} (hi : l.issue = .running i base) (hr : e.reset = true) :
    (l.boundary lc e m).phase = .closed ∧ (l.boundary lc e m).sinkOpen = false := by
  have hissue : ((l.hear lc e m).reset e.reset).issue = .free := by
    rw [reset_issue, hr]
    obtain h | h := hear_issue_running lc e m hi <;> rw [h] <;> rfl
  have hphase := reset_terminating e.reset (hear_terminating lc e m hp)
  obtain ⟨hpphase, -, -, -, hpopen, -⟩ := present_keeps lc (((l.hear lc e m).reset e.reset).finish lc e)
  rw [boundary_terminating lc e m hp, hpphase, hpopen]
  exact finish_closes lc e hphase hissue

end Terminating

/-! ### A step of the joined system -/

@[simp] theorem drive_cancel (h : HostPort) (s : Issue) : (s.drive h).cancel = h.cancel := by
  cases s <;> rfl
@[simp] theorem drive_readSample (h : HostPort) (s : Issue) : (s.drive h).readSample = h.readSample := by
  cases s <;> rfl
@[simp] theorem drive_plan (h : HostPort) (s : Issue) : (s.drive h).plan = h.plan := by
  cases s <;> rfl

/-- Acceptance ends no command. -/
theorem afterAcceptance_ne_free {s : Issue} (m : Framer c) (h : s ≠ .free) : s.afterAcceptance m ≠ .free := by
  cases s with
  | free => exact absurd rfl h
  | presented i =>
    rw [afterAcceptance_presented]
    split <;> simp
  | running i base => exact h

/-- The loop after a step of the system is the loop's part of the boundary, the acceptance apart. -/
theorem System_step_loop {lc : LoopConfig} {e : LoopInput} {x y : System} (h : x.step lc e = .next y) :
    ∃ driven : Framer x.st.cfg, y.loop = { x.loop.boundary (lc.forBlock x.st.cfg) e x.st.fr with
      issue := (x.loop.boundary (lc.forBlock x.st.cfg) e x.st.fr).issue.afterAcceptance driven } := by
  obtain ⟨t, -, rfl⟩ := System_step_cases h
  exact ⟨_, rfl⟩

/-- After a step of the system `cancel_i` is at the level the loop drives. -/
theorem System_step_cancel {lc : LoopConfig} {e : LoopInput} {x y : System} (h : x.step lc e = .next y) :
    y.st.fr.port.cancel = (x.loop.boundary (lc.forBlock x.st.cfg) e x.st.fr).cancelLevel := by
  obtain ⟨t, ht, rfl⟩ := System_step_cases h
  obtain ⟨a, -, hport⟩ := step_port ht
  exact (congrArg HostPort.cancel hport).trans
    ((HostPort_turn_cancel (by simp [Loop.ports]) _ _).trans (by simp [Loop.ports]))

/-- A step in which the loop reads `sample_o` is of a block that shows a sample, and the host takes that sample. -/
theorem System_step_reads {lc : LoopConfig} {e : LoopInput} {x y : System} (h : x.step lc e = .next y)
    (hr : x.loop.reads x.st.fr = true) :
    x.st.fr.started = true ∧ x.st.fr.sampleValid = true ∧ y.st.fr.port.taken = some x.st.fr.sample.toNat := by
  obtain ⟨t, ht, rfl⟩ := System_step_cases h
  have hread : ((x.loop.boundary (lc.forBlock x.st.cfg) e x.st.fr).ports e x.st.fr
      (x.loop.reads x.st.fr)).readSample = true := by simp [Loop.ports, hr]
  obtain ⟨hs, hv⟩ := step_sampleValid hread ht
  have htaken := step_taken hread ht
  exact ⟨hs, hv, htaken⟩

/-! ### The obligations -/

/-- Settles O54: the two boundaries of the conversion, and the part of the full scale that is missing at the upper one. -/
theorem voltageBoundaries : Obligations.VoltageBoundaries :=
  fun w vref offset => ⟨toVoltage_zero w vref offset, toVoltage_max w vref offset, toVoltage_max_ne w offset⟩

/-- Settles O7: the host's turn takes the sample, and the block's step does not see whether it does. -/
theorem validSampleReadHasNoSideEffect : Obligations.ValidSampleReadHasNoSideEffect := by
  intro c m t hr h
  obtain ⟨q, hq⟩ := step_without_read h
  exact ⟨step_taken hr h, withPort q t, hq, rfl⟩

/-- Settles O58: with nothing issued the end of termination acts, with and without a last sample; otherwise not. -/
theorem finalRecordOnlyIfASampleExists : Obligations.FinalRecordOnlyIfASampleExists := by
  intro lc e l
  refine ⟨fun hp hi => ?_, fun h => finish_else lc e (not_and_or.mpr h)⟩
  obtain ⟨hphase, hopen⟩ := finish_closes lc e hp hi
  obtain ⟨-, hlast, -⟩ := finish_keeps lc e l
  refine ⟨hphase, hopen, hlast, fun hl => ?_, fun s hl => ?_⟩
  · rw [finish_without_sample lc e hp hi hl]
    exact ⟨rfl, rfl⟩
  · rw [finish_with_sample lc e hp hi hl]
    exact ⟨rfl, rfl⟩

/-- Settles O55: the loop reads the sample at the boundary that shows the response, so the step's read was a valid one,
and hearing that response is all of the boundary but for the next command. -/
theorem runningCycleRecordsAboveThreshold : Obligations.RunningCycleRecordsAboveThreshold := by
  intro lc e x y i base h hp hb hi hsamples hv hs ht hr
  have hbrings : bringsSample x.st.fr i = true := by
    obtain rfl | rfl := hsamples <;> simp [bringsSample, Instr.samples, hs]
  obtain ⟨hstarted, hvalid, htaken⟩ := System_step_reads h (by simp [Loop.reads, hi, hv, hbrings])
  have hheard := hear_sample (lc.forBlock x.st.cfg) e hi hb hv hbrings hstarted hvalid
  rw [takes_running _ _ _ (by exact hp)] at hheard
  have hrunning := (congrArg Loop.phase hheard).trans hp
  obtain ⟨driven, hloop⟩ := System_step_loop h
  obtain ⟨hphase, -, hlast, hsink, -, hreports⟩ :=
    present_keeps (lc.forBlock x.st.cfg) (x.loop.hear (lc.forBlock x.st.cfg) e x.st.fr)
  rw [hloop, boundary_running (lc.forBlock x.st.cfg) ht hr hrunning]
  exact ⟨_, rfl, fun ha => by rw [← forBlock_voltage, forBlock_of_agrees ha], hlast.trans (congrArg Loop.last hheard),
    htaken, hphase.trans hrunning, hsink.trans (congrArg Loop.sink hheard),
    hreports.trans (congrArg Loop.reports hheard)⟩

/-- Settles O56: a sample is taken and trust is gained in hearing alone, and a reset takes the trust away. -/
theorem loopTrustsNoSampleBeforeStartup : Obligations.LoopTrustsNoSampleBeforeStartup := by
  intro lc e x y h
  obtain ⟨driven, hloop⟩ := System_step_loop h
  obtain ⟨hlast, hbooted⟩ := boundary_keeps (lc.forBlock x.st.cfg) e x.st.fr x.loop
  rw [hloop]
  refine ⟨fun hb => hlast.trans (hear_untrusting _ e x.st.fr hb).1, fun hb hb' => ?_, fun hr => ⟨?_, ?_⟩,
    fun hr ht hp => boundary_reset_starting _ x.st.fr hr ht hp⟩
  · have hheard : (x.loop.hear (lc.forBlock x.st.cfg) e x.st.fr).booted = true := by
      have hand := hbooted.symm.trans hb'
      simp only [Bool.and_eq_true] at hand
      exact hand.2
    exact (hear_untrusting _ e x.st.fr hb).2 hheard
  · exact hbooted.trans (by simp [hr])
  · exact boundary_reset_phase _ x.st.fr x.loop hr

/-- Settles O57: a command that is presented, or in progress with no response and no reset, keeps the host waiting; a
reset that takes the command in progress away ends the wait. -/
theorem terminationWaitsForTheResponse : Obligations.TerminationWaitsForTheResponse := by
  intro lc e x y h hp
  obtain ⟨driven, hloop⟩ := System_step_loop h
  refine ⟨(System_step_cancel h).trans (boundary_cancelLevel _ e x.st.fr hp), fun hwait => ?_, fun hrun hr => ?_⟩
  · have hissue : x.loop.issue.hears x.st.fr = none ∧ x.loop.issue.afterReset e.reset ≠ .free := by
      obtain ⟨i, hi⟩ | ⟨⟨i, base, hi⟩, hv, hr⟩ := hwait
      · rw [hi]
        exact ⟨rfl, by simp [Issue.afterReset]⟩
      · rw [hi, hr]
        exact ⟨hears_not_yet i base hv, by simp [Issue.afterReset]⟩
    obtain ⟨hlast, hsink, hopen⟩ := reset_keeps e.reset x.loop
    rw [hloop, boundary_waiting _ e x.st.fr hp hissue.1 hissue.2]
    refine ⟨reset_terminating e.reset hp, afterAcceptance_ne_free driven ?_, hsink, hopen, hlast⟩
    rw [reset_issue]
    exact hissue.2
  · obtain ⟨i, base, hi⟩ := hrun
    rw [hloop]
    exact boundary_reset_closes _ e x.st.fr hp hi hr

end Sys2Proof.Machine
end

section
/-! PROOFS. The exceptions' statements (60_exceptions R203 to R207): what `cancel_i` ends, where its level leaves no trace,
and a command that is cancelled at its first step boundary. -/

namespace Sys2Proof.Machine

variable {c : Params}

/-! ### The level of `cancel_i` outside a SYNC phase (R204, R205) -/

/-- Outside a SYNC phase a step of a command reads no input port. -/
theorem commandStep_withPort_of_not_sync (p : HostPort) {i : Instr} {m u : Framer c} (hf : m.fsm ≠ .sync)
    (h : commandStep (rowOf c i) m = .next ⟨c, u⟩) :
    commandStep (rowOf c i) (withPort p m) = .next ⟨c, withPort p u⟩ := by
  obtain ⟨hi, hu⟩ | ⟨hs, -, -⟩ | ⟨hi, v, hv, hu⟩ := commandStep_cases h
  · cases hu
    rw [commandStep_idle _ (withPort p m) hi, accept_withPort]
  · exact absurd hs hf
  · cases hu
    rw [commandStep_pulse _ (withPort p m) hi fun hs => absurd hs hf, pulseOfPhase_withPort, hv]
    rfl

/-- Outside a SYNC phase a step at the other level of `cancel_i` differs in the ports alone. -/
theorem step_withCancel {m t : Framer c} (level : Bool) (hf : m.fsm ≠ .sync) (h : step ⟨c, m⟩ = .next ⟨c, t⟩) :
    ∃ q, step ⟨c, withPort { m.port with cancel := level } m⟩ = .next ⟨c, withPort q t⟩ := by
  obtain ⟨hl, hb, ⟨hr, ht⟩ | ⟨hr, hs, i, ⟨d, u⟩, hi, hu, ht⟩ | ⟨hr, hs, hi, ht⟩⟩ := step_cases h
  · cases ht
    exact ⟨_, step_reset (withPort _ m) hl hb hr⟩
  · obtain rfl : d = c := commandStep_cfg hu
    cases ht
    rw [step_run (withPort { m.port with cancel := level } m) i hl hb hr hs hi, exec_eq,
      commandStep_withPort_of_not_sync _ hf hu]
    exact ⟨_, rfl⟩
  · cases ht
    exact ⟨_, step_idle (withPort _ m) hl hb hr hs hi⟩

/-! ### A command cancelled at its first step boundary (R207) -/

/-- Accepting a command with a SYNC phase enters that phase (41_frame_synchronizer R120). -/
theorem accept_rowOf_eq_enterSync {i : Instr} (h : i.startsWithSync = true) (m : Framer c) :
    accept (rowOf c i) m = enterSync { clearResp m with op := encode i } := by
  cases i with
  | sync => rfl
  | acquire => rfl
  | startup => rfl
  | rsvd0 => cases h
  | pulse => cases h
  | flush => cases h
  | read => cases h
  | rsvd7 => cases h

/-- A cancelled SYNC phase that is let run answers CANCELLED in one step, and then the host sets the ports. -/
theorem Calm.step_cancelled {m : Framer c} (hm : Calm m) (hf : m.fsm = .sync) (hc : m.port.cancel = true) :
    step ⟨c, m⟩ = .next ⟨c, withPort (m.port.turn false m.sample.toNat) (respond .cancelled m)⟩ :=
  hm.step_busy (by simp [hf]) (exec_syncPhase_cancel _ hf hc)

/-- A ready block that is let run accepts the presented command, and then the host sets the ports. -/
theorem Calm.step_accepts {m : Framer c} (hm : Calm m) (hf : m.fsm = .idle) (hv : m.respValid = false)
    (hp : m.port.cmdValid = true) :
    step ⟨c, m⟩ = .next ⟨c, withPort (m.port.turn true m.sample.toNat)
      (Machine.accept (rowOf c (decode m.port.cmdOp)) m)⟩ := by
  rw [step_accepted hm.legal hm.badRead hm.noReset.1 hm.started hf hv hp, exec_idle _ hf,
    Outcome.thenHost, hostTurn_mk, accept_rowOf_port]
  rfl

/-! ### The obligations -/

/-- Settles O21: every command's step of a cancelled SYNC phase is the response alone. -/
theorem cancelEndsASyncPhase : Obligations.CancelEndsASyncPhase :=
  fun _ _ i hf hc _ => exec_syncPhase_cancel i hf hc

/-- Settles O22: only a SYNC phase reads `cancel_i`, and the ports after the step are the host's. -/
theorem cancelLeavesNoTraceOutsideSync : Obligations.CancelLeavesNoTraceOutsideSync := by
  intro c m t level hf h
  obtain ⟨q, hq⟩ := step_withCancel level hf h
  exact ⟨withPort q t, hq, rfl⟩

/-- Settles O23: the first step enters the SYNC phase, and the second finds `cancel_i` = 1 before any pulse. -/
theorem cancelledAtFirstBoundaryIssuesNoPulse : Obligations.CancelledAtFirstBoundaryIssuesNoPulse := by
  intro c m hm hf hv hp hsync _ hcancel
  have haccept := hm.step_accepts hf hv hp
  rw [accept_rowOf_eq_enterSync hsync] at haccept
  have hcancelled := (hm.next haccept).step_cancelled rfl hcancel
  exact ⟨_, (core_run_succ 1 haccept).trans (core_run_succ 0 hcancelled), rfl, rfl, rfl, rfl, rfl, rfl, rfl, rfl, rfl⟩

end Sys2Proof.Machine
end

section
/-! PROOFS. The statements of reset and hazards (70_reset_and_hazards R232, R238, R250): the first cycle after reset, the
value of a framed READ, and the cycles of a pulse slot under the reference timing. -/

namespace Sys2Proof.Machine

variable {c : Params}

/-! ### A READ of a spelled value (R238) -/

/-- W pulses on a line that will spell `raw` collect `raw` (42_adc_bit_collector R145). -/
theorem shregAfter_spelled {v : Converter} {raw : Nat} {rest : List Bit} (hdriven : v.driven = true)
    (hraw : raw < 2 ^ c.w) (hnamed : v.named = msbSpelling c.w raw ++ rest) :
    (shregAfter c c.w v).toNat = raw := by
  have hbits := Converter_upcoming_named (msbSpelling c.w raw) rest v hdriven hnamed
  rw [msbSpelling_length] at hbits
  rw [shregAfter_toNat le_rfl, hbits, msbValue_msbSpelling, Nat.mod_eq_of_lt hraw]

/-! ### The clock's edges and the synchronizer's view of the line -/

/-- A rising edge leaves the data line where it was. -/
@[simp] theorem readData_driveClk_true (m : Framer c) : readData (driveClk true m) = readData m := by
  simp [readData, driveClk]

theorem clearResp_of_silent {m : Framer c} (h : m.respValid = false) : clearResp m = m := by
  cases m
  cases h
  rfl

/-! ### The block's registers at each edge of a busy block (R250) -/

section BusyEdge

variable {t : Timing} {row : Row c} {m : Framer c} {n : Nat} {f1 f2 : Bit}

/-- The begin edge of a slot, where the phase goes on: the clock falls. -/
theorem busyEdge_begin (hc : m.fsm = .sync → m.port.cancel = false) :
    busyEdge t row { fr := m, slot := 0, ff1 := f1, ff2 := f2 } = some (driveClk false (clearResp m), 1) := by
  have hgo : ¬ (m.fsm = .sync ∧ m.port.cancel = true) := fun h => by simp [hc h.1] at h
  simp [busyEdge, hgo]

/-- The begin edge of a SYNC slot with `cancel_i` = 1: the response, and no falling edge (60_exceptions R203). -/
theorem busyEdge_cancel (hf : m.fsm = .sync) (hc : m.port.cancel = true) :
    busyEdge t row { fr := m, slot := 0, ff1 := f1, ff2 := f2 } = some (respond .cancelled (clearResp m), 0) := by
  simp [busyEdge, hf, hc]

/-- Between the falling edge, the rising edge and the sample nothing changes. -/
theorem busyEdge_wait (hpos : 0 < n) (hne : n ≠ t.tLow) (hlt : n < t.tLow + t.tHigh) :
    busyEdge t row { fr := m, slot := n, ff1 := f1, ff2 := f2 } = some (clearResp m, n + 1) := by
  simp [busyEdge, hpos.ne', hne, hlt]

/-- After T_LOW cycles the clock rises. -/
theorem busyEdge_rise (hpos : 0 < n) (hn : n = t.tLow) :
    busyEdge t row { fr := m, slot := n, ff1 := f1, ff2 := f2 } = some (driveClk true (clearResp m), n + 1) := by
  subst hn
  simp [busyEdge, hpos.ne']

/-- The last edge of a slot: the phase's updates, with the bit the synchronizer holds (R252). -/
theorem busyEdge_sample (ht : t.Legal) (hn : n = t.tLow + t.tHigh) :
    busyEdge t row { fr := m, slot := n, ff1 := f1, ff2 := f2 } =
      (phaseUpdate row f2 (clearResp m)).map (fun u => (u, 0)) := by
  obtain ⟨hlow, hhigh⟩ := ht
  subst hn
  simp [busyEdge, Nat.ne_of_gt hlow, Nat.ne_of_gt hhigh]

end BusyEdge

/-! ### One cycle, and several -/

/-- A cycle of a busy block: its edge, the host's turn, and the synchronizer's next sample of the line. -/
theorem cycleStep_busy {t : Timing} {s : CycleState c} {u : Framer c} {n : Nat} (hl : c.Legal) (ht : t.Legal)
    (hb : badRead s.fr = false) (hs : s.fr.started = true) (hr : s.fr.port.rst = false) (hi : s.fr.fsm ≠ .idle)
    (hu : busyEdge t (rowOf c (decode s.fr.op)) s = some (u, n)) :
    cycleStep t s = .next { fr := withPort (u.port.turn false s.fr.sample.toNat) u
                            slot := n, ff1 := readData s.fr, ff2 := s.ff1 } := by
  have hedge : blockEdge t s = some (u, n) := by simp [blockEdge, hr, hi, hu]
  simp [cycleStep, hl, ht, hb, hs, hedge, accepts_busy s.fr hi, withPort]

/-- A cycle refuses a configuration or a timing exactly outside its legal range (00_scope R8, R11). -/
theorem cycleStep_illegalConfig_iff (t : Timing) (s : CycleState c) :
    cycleStep t s = .refused .illegalConfig ↔ ¬ (c.Legal ∧ t.Legal) := by
  refine ⟨fun h hlegal => ?_, fun h => by rw [cycleStep, if_pos h]⟩
  rw [cycleStep, if_neg (not_not.mpr hlegal)] at h
  split at h
  · cases h
  · split at h
    · cases h
    · split at h <;> cases h

theorem cycles_succ {t : Timing} {s s' : CycleState c} (n : Nat) (h : cycleStep t s = .next s') :
    cycles t (n + 1) s = cycles t n s' := by
  simp only [cycles, h]

theorem cycles_add {t : Timing} (n k : Nat) {s s' : CycleState c} (h : cycles t n s = .next s') :
    cycles t (n + k) s = cycles t k s' := by
  induction n generalizing s with
  | zero =>
    cases h
    rw [Nat.zero_add]
  | succ n ih =>
    rw [Nat.add_right_comm]
    cases hstep : cycleStep t s with
    | next u =>
      rw [cycles_succ _ hstep] at h ⊢
      exact ih h
    | fault f => simp [cycles, hstep] at h
    | refused r => simp [cycles, hstep] at h

/-! ### A pulse slot that the host does not disturb -/

/-- A host that has no move left and changes no port. -/
structure QuietPort (h : HostPort) : Prop where
  /-- No reset. -/
  rst : h.rst = false
  /-- No choice about one. -/
  midPulse : h.midPulse = false
  /-- No read of `sample_o`. -/
  readSample : h.readSample = false
  /-- No move to come. -/
  plan : h.plan = []

/-- The turn of such a host after a boundary that accepts nothing. -/
theorem QuietPort.turn {h : HostPort} (hq : QuietPort h) (n : Nat) : h.turn false n = h := by
  obtain ⟨hrst, hmid, hread, hplan⟩ := hq
  cases h
  cases hrst
  cases hmid
  cases hread
  cases hplan
  simp [HostPort.turn, HostPort.nextMove, HostPort.quietMove]

/-- A busy block after its first reset whose host is quiet: what holds throughout a pulse slot. -/
structure InSlot (m : Framer c) : Prop where
  /-- The first reset is over. -/
  started : m.started = true
  /-- A command is in progress. -/
  busy : m.fsm ≠ .idle
  /-- The host changes no port. -/
  quiet : QuietPort m.port

theorem InSlot.after_clearResp {m : Framer c} (h : InSlot m) : InSlot (clearResp m) :=
  ⟨h.started, h.busy, h.quiet⟩

theorem InSlot.after_driveClk {m : Framer c} (h : InSlot m) (l : Bit) : InSlot (driveClk l m) :=
  ⟨(driveClk_started l m).trans h.started, by simpa using h.busy, (driveClk_port l m).symm ▸ h.quiet⟩

section Slot

variable {t : Timing} {m : Framer c} (hl : c.Legal) (ht : t.Legal) (hm : InSlot m)

include hl ht hm

/-- In a pulse slot of a quiet host a cycle is the block's edge and the synchronizer's. -/
theorem InSlot.cycleStep_eq {u : Framer c} {n k : Nat} {f1 f2 : Bit} (hport : u.port = m.port)
    (hu : busyEdge t (rowOf c (decode m.op)) { fr := m, slot := n, ff1 := f1, ff2 := f2 } = some (u, k)) :
    cycleStep t { fr := m, slot := n, ff1 := f1, ff2 := f2 } =
      .next { fr := u, slot := k, ff1 := readData m, ff2 := f1 } := by
  have hread : badRead m = false := by simp [badRead, hm.quiet.readSample]
  have hturn : withPort (u.port.turn false m.sample.toNat) u = u := by
    rw [hport, hm.quiet.turn, ← hport]
    rfl
  rw [cycleStep_busy hl ht hread hm.started hm.quiet.rst hm.busy hu, hturn]

/-- `n` cycles in which the clock holds its level: the synchronizer shows the line's level after the second. -/
theorem InSlot.cycles_wait (hv : m.respValid = false) {a : Nat} (ha : 0 < a) (f1 f2 : Bit) (n : Nat)
    (hwait : ∀ i < n, a + i ≠ t.tLow ∧ a + i < t.tLow + t.tHigh) :
    ∃ g1 g2 : Bit, (1 ≤ n → g1 = readData m) ∧ (2 ≤ n → g2 = readData m) ∧
      cycles t n { fr := m, slot := a, ff1 := f1, ff2 := f2 } =
        .next { fr := m, slot := a + n, ff1 := g1, ff2 := g2 } := by
  induction n with
  | zero => exact ⟨f1, f2, by omega, by omega, rfl⟩
  | succ n ih =>
    obtain ⟨g1, g2, hg1, -, hrun⟩ := ih fun i hi => hwait i (by omega)
    obtain ⟨hne, hlt⟩ := hwait n (by omega)
    have hedge := hm.cycleStep_eq (f1 := g1) (f2 := g2) hl ht (clearResp_port m)
      (busyEdge_wait (Nat.add_pos_left ha n) hne hlt)
    rw [clearResp_of_silent hv] at hedge
    refine ⟨readData m, g1, fun _ => rfl, fun h => hg1 (by omega), ?_⟩
    rw [cycles_add n 1 hrun, cycles_succ 0 hedge]
    rfl

/-- The first part of a slot: the clock falls, stays low for T_LOW cycles and rises. -/
theorem InSlot.cycles_low (hc : m.fsm = .sync → m.port.cancel = false) (f1 f2 : Bit) :
    ∃ g1 g2 : Bit, cycles t (1 + t.tLow) { fr := m, slot := 0, ff1 := f1, ff2 := f2 } =
      .next { fr := pulseEdges (clearResp m), slot := t.tLow + 1, ff1 := g1, ff2 := g2 } := by
  have hlow : InSlot (driveClk false (clearResp m)) := hm.after_clearResp.after_driveClk false
  have hv : (driveClk false (clearResp m)).respValid = false := by simp
  obtain ⟨low, hn⟩ := Nat.exists_eq_add_one.mpr ht.1
  have hbegin := hm.cycleStep_eq (f1 := f1) (f2 := f2) hl ht (by simp) (busyEdge_begin hc)
  obtain ⟨g1, g2, -, -, hwait⟩ := hlow.cycles_wait hl ht hv (a := 1) Nat.one_pos (readData m) f1 low
    fun i hi => by omega
  have hrise := hlow.cycleStep_eq (f1 := g1) (f2 := g2) hl ht (by simp)
    (busyEdge_rise (n := 1 + low) (by omega) (by omega))
  rw [clearResp_of_silent hv] at hrise
  refine ⟨readData (driveClk false (clearResp m)), g1, ?_⟩
  rw [Nat.add_comm 1, cycles_succ _ hbegin, hn, cycles_add low 1 hwait, cycles_succ 0 hrise, Nat.add_comm 1 low]
  rfl

/-- The second part of a slot, after the rising edge: with T_HIGH at least 3 the synchronizer shows the line's level by
the edge that samples it (R252). -/
theorem InSlot.cycles_high (hv : m.respValid = false) (hh : 3 ≤ t.tHigh) (f1 f2 : Bit) {u : Framer c}
    (hu : phaseUpdate (rowOf c (decode m.op)) (readData m) m = some u) :
    ∃ g1 g2 : Bit, cycles t t.tHigh { fr := m, slot := t.tLow + 1, ff1 := f1, ff2 := f2 } =
      .next { fr := u, slot := 0, ff1 := g1, ff2 := g2 } := by
  obtain ⟨high, hn⟩ := Nat.exists_eq_add_one.mpr ht.2
  obtain ⟨g1, g2, -, hg2, hwait⟩ := hm.cycles_wait hl ht hv (a := t.tLow + 1) (Nat.succ_pos _) f1 f2 high
    fun i hi => by omega
  have hedge : busyEdge t (rowOf c (decode m.op)) ⟨m, t.tLow + 1 + high, g1, g2⟩ = some (u, 0) := by
    rw [busyEdge_sample ht (by omega), clearResp_of_silent hv, hg2 (by omega), hu, Option.map_some]
  have hsample := hm.cycleStep_eq hl ht (phaseUpdate_keeps_port hu) hedge
  refine ⟨readData m, g1, ?_⟩
  rw [hn, cycles_add high 1 hwait, cycles_succ 0 hsample]
  rfl

/-- The cycles of a slot make one pulse of the phase in progress (R250). -/
theorem InSlot.cycles_slot (hc : m.fsm = .sync → m.port.cancel = false) (hh : 3 ≤ t.tHigh) (f1 f2 : Bit)
    {u : Framer c} (hu : pulseOfPhase (rowOf c (decode m.op)) m = some u) :
    ∃ g1 g2 : Bit, cycles t t.slotLength { fr := m, slot := 0, ff1 := f1, ff2 := f2 } =
      .next { fr := u, slot := 0, ff1 := g1, ff2 := g2 } := by
  have hedges : InSlot (pulseEdges (clearResp m)) := (hm.after_clearResp.after_driveClk false).after_driveClk true
  obtain ⟨g1, g2, hlow⟩ := hm.cycles_low hl ht hc f1 f2
  rw [Timing.slotLength, cycles_add _ _ hlow]
  exact hedges.cycles_high hl ht (by simp) hh g1 g2 (by rw [pulseEdges_op]; exact hu)

end Slot

/-! ### The obligations -/

/-- Settles O36: the acceptance enters the READ phase with `synced` kept, and the W bits the phase collects are the
spelling. -/
theorem framedReadReturnsTheFrameValue : Obligations.FramedReadReturnsTheFrameValue := by
  intro c m raw rest hm hs ha hread hframed hdriven hraw hnamed
  obtain ⟨hp, hf, -, hv⟩ := (accepts_iff m).mp ha
  have haccept := hm.step_accepts hf hv hp
  rw [hread] at haccept
  have hrun := readPhase_run_ends (hm.next haccept) rfl rfl rfl hs
  exact ⟨_, _, haccept, hframed ⟨ha, hread⟩, rfl, hrun, rfl, rfl, rfl,
    shregAfter_spelled hdriven hraw hnamed, rfl, rfl⟩

/-- Settles O60: the slot's cycles make the pulse that the step makes; the cancelled edge and the refusal are one cycle
each. -/
theorem pulseSlotRefinesOneStep : Obligations.PulseSlotRefinesOneStep := by
  refine ⟨?slot, ?cancelled, fun c t s => (cycleStep_illegalConfig_iff t s).trans not_and_or⟩
  case slot =>
    intro c t m u f1 f2 hl ht hh hs hr hmid hread hplan hi _ hc h
    have hm : InSlot m := ⟨hs, hi, hr, hmid, hread, hplan⟩
    rw [exec_eq] at h
    obtain ⟨hidle, -⟩ | ⟨hf, hcancel, -⟩ | ⟨-, v, hv, hu⟩ := commandStep_cases h
    · exact absurd hidle hi
    · simp [hc hf] at hcancel
    · cases hu
      exact hm.cycles_slot hl ht hc hh f1 f2 hv
  case cancelled =>
    intro c t m f1 f2 hl ht hs hr hread hf hc
    have hb : badRead m = false := by simp [badRead, hread]
    have hi : m.fsm ≠ .idle := by simp [hf]
    have hstep := step_inProgress hl hb hr hs hi
    rw [exec_syncPhase_cancel _ hf hc] at hstep
    have hcycle := cycleStep_busy hl ht hb hs hr hi
      (busyEdge_cancel (f1 := f1) (f2 := f2) hf hc)
    exact ⟨_, hstep, rfl, rfl, rfl, rfl, rfl, rfl, cycles_succ 0 hcycle⟩

/-- Settles O1: every register but the ports is a literal of the reset state, so readiness needs `rst_i` = 0 alone. -/
theorem firstCycleAfterResetAccepts : Obligations.FirstCycleAfterResetAccepts :=
  ⟨fun _ _ _ hr => ⟨rfl, rfl, (cmdReady_iff _).mpr ⟨rfl, hr, rfl⟩, rfl, rfl,
    fun hp => (accepts_iff _).mpr ⟨hp, rfl, hr, rfl⟩⟩, rfl⟩

end Sys2Proof.Machine
end

section
/-! PROOFS. The statements about a reset's converter and about the model's stops (10_state R47, 70_reset_and_hazards
R233, R234): which host reads are faults, and the converter across a reset of a busy and of an IDLE block. -/

namespace Sys2Proof.Machine

variable {c : Params}

/-! ### The host's forbidden read (10_state R47) -/

/-- Where no sample is shown, every read is a forbidden one, whether the block has been reset or not. -/
theorem badRead_of_sampleValid_false {m : Framer c} (hv : m.sampleValid = false) : badRead m = m.port.readSample := by
  simp [badRead, hv]

/-- Before the first reset every read is a forbidden one, whatever `sample_valid_o` shows. -/
theorem badRead_of_notStarted {m : Framer c} (hs : m.started = false) : badRead m = m.port.readSample := by
  simp [badRead, hs]

theorem hostReadSample_of_sampleValid_false {m : Framer c} (hv : m.sampleValid = false) :
    hostReadSample m = .error .sampleNotValid := by
  simp [hostReadSample, hv]

/-! ### The converter across a reset (70_reset_and_hazards R233) -/

/-- In a reset of a busy block the environment alone chooses whether the falling edge was made. -/
theorem resetMidPulse_busy {m : Framer c} (hi : m.fsm ≠ .idle) : resetMidPulse m = m.port.midPulse := by
  simp [resetMidPulse, hi]

/-- An IDLE block that has been reset makes no pulse that a reset could find in progress. -/
theorem resetMidPulse_idle {m : Framer c} (hs : m.started = true) (hi : m.fsm = .idle) : resetMidPulse m = false := by
  simp [resetMidPulse, hs, hi]

theorem resetStep_line_shifted {m : Framer c} (h : resetMidPulse m = true) : (resetStep m).line = m.line.shift := by
  rw [resetStep_line, if_pos h]

theorem resetStep_line_kept {m : Framer c} (h : resetMidPulse m = false) : (resetStep m).line = m.line := by
  simp [h]

/-! ### The obligations -/

/-- Settles O3: the environment's choice decides the shift of a busy block's reset, and an IDLE block has no pulse. -/
theorem resetShiftsConverterByZeroOrOne : Obligations.ResetShiftsConverterByZeroOrOne :=
  fun _ m hl hb hr hs => ⟨_, step_reset m hl hb hr, rfl,
    fun hi hmid => resetStep_line_shifted ((resetMidPulse_busy hi).trans hmid),
    fun hi hmid => resetStep_line_kept ((resetMidPulse_busy hi).trans hmid),
    fun hi => resetStep_line_kept (resetMidPulse_idle hs hi)⟩

/-- Settles O4: a read is a forbidden one there and faults first; with none, the missing reset is the fault. -/
theorem noStepBeforeFirstReset : Obligations.NoStepBeforeFirstReset := by
  refine ⟨?before, fun s _ h => step_started (m := s.fr) h⟩
  case before =>
    intro c m hl hs hr
    have hbad : badRead m = m.port.readSample := badRead_of_notStarted hs
    cases hread : m.port.readSample with
    | true => exact step_badRead ⟨c, m⟩ hl (hbad.trans hread)
    | false => exact step_notStarted m hl (hbad.trans hread) hr hs

/-- Settles O6: with no sample shown a read is a forbidden one, and a step looks for that before anything
of the block. -/
theorem invalidSampleReadFaults : Obligations.InvalidSampleReadFaults :=
  fun c m hl hv => ⟨hostReadSample_of_sampleValid_false hv,
    fun hread => step_badRead ⟨c, m⟩ hl ((badRead_of_sampleValid_false hv).trans hread)⟩

end Sys2Proof.Machine
end
